-- ==== Sys2Proof/Word.lean ====
section
/-! DEFINITION. The word types of the block and the one way a word is built from its bits.
Bit 0 is the least significant bit, and coordinate position j of a GF(2) vector is bit j
(spec 00_scope.md R11, R12; 20_memory.md R60). -/

namespace Sys2Proof

/-- A 24-bit vector over GF(2): an ErrorPattern, a matrix row or a LEADER cell (R12, R25). -/
abbrev Pattern := BitVec 24

/-- A 12-bit Syndrome, also the address of a LEADER cell and of a FOUND bit (R23, R47, R48). -/
abbrev Syndrome := BitVec 12

/-- A 32-bit command word or register value (R35, R90). -/
abbrev Word := BitVec 32

/-- One byte of the artifact (R61). -/
abbrev Byte := BitVec 8

/-- A 12 x 24 matrix over GF(2): `m[i]` is row i, column j is bit j of a row (R12). -/
abbrev Matrix := Vector Pattern 12

/-- The word of n bits whose bit j is `f j`. -/
def bitsOf : (n : Nat) → (Nat → Bool) → BitVec n
  | 0, _ => 0#0
  | n + 1, f => BitVec.cons (f n) (bitsOf n f)

end Sys2Proof
end

