-- ==== Sys2Proof/Syntax.lean ====
section
/-! DEFINITION. The seven commands (spec 30_encoding.md R93), one constructor per row of
spec/opcode_table.json. -/

namespace Sys2Proof

/-- The command opcodes, the values the OP field can hold (30_encoding.md R93, 10_state.md R37, U8). -/
inductive Opcode where
  | nop | init | synd | build | rdrow | ser | run
  deriving DecidableEq, Repr

/-- A command with its operand. Each operand has exactly its field's width, and every value of that
width is legal (R92). -/
inductive Instr where
  /-- NOP (R220) -/
  | nop
  /-- INIT: check G and derive H (R120) -/
  | init
  /-- SYND e: the syndrome of the 24-bit ErrorPattern e (R145) -/
  | synd (imm24 : Pattern)
  /-- BUILD: search the coset leaders (R160) -/
  | build
  /-- RDROW s: read the table row of the 12-bit Syndrome s (R190) -/
  | rdrow (imm12 : Syndrome)
  /-- SER: send the table to the sink (R192) -/
  | ser
  /-- RUN: INIT, BUILD and SER as one batch (R222) -/
  | run
  deriving DecidableEq, Repr

/-- An assembler line for a command, its operand a plain number (R101). -/
inductive AsmLine where
  | nop
  | init
  | synd (e : Nat)
  | build
  | rdrow (s : Nat)
  | ser
  | run
  deriving DecidableEq, Repr

end Sys2Proof
end

