-- ==== Sys2Proof/WellFormed.lean ====
section
/-! DEFINITION. Which commands and assembler lines are well formed. An `Instr` has its operands at
their fields' widths, so each one is well formed (R92); an assembler line whose operand is outside
its width is an assembly error and has no encoding (R101). -/

namespace Sys2Proof

/-- Every command is well formed: every value of an immediate is legal (30_encoding.md R92). -/
def Instr.wf : Instr → Bool
  | .nop => true
  | .init => true
  | .synd _ => true
  | .build => true
  | .rdrow _ => true
  | .ser => true
  | .run => true

/-- The operand of an assembler line lies inside its field's width (30_encoding.md R101). -/
def AsmLine.wf : AsmLine → Bool
  | .nop => true
  | .init => true
  | .synd e => decide (e < 2 ^ 24)
  | .build => true
  | .rdrow s => decide (s < 2 ^ 12)
  | .ser => true
  | .run => true

end Sys2Proof
end

