-- ==== Sys2Proof/Decode.lean ====
section
/-! DEFINITION. Decoding and encoding of command words (spec 30_encoding.md R90 to R95, R101).
Decode is total on the 2^32 words and refuses an illegal word by the reason's name; the encoder is
written from the same tables. -/

namespace Sys2Proof

/-- Why a word is illegal (R94). All three lead to the same rejection. -/
inductive IllegalWord where
  /-- OPC is in 7..15 (R94, R95). -/
  | reservedOpcode
  /-- The RSV field 27:24 is not 0 (R90, R94). -/
  | reservedBits
  /-- A must-be-zero bit of IMM is 1 (R91, R94). -/
  | immediateBits
  deriving DecidableEq, Repr

/-- The 32-bit word with v at bit `lo` and 0 in every other bit: one field of a packed word. -/
def field {n : Nat} (v : BitVec n) (lo : Nat) : Word := v.setWidth 32 <<< lo

/-- OPC, bits 31:28 (R90). -/
def opcField (w : Word) : BitVec 4 := w.extractLsb' 28 4

/-- RSV, bits 27:24 (R90). -/
def rsvField (w : Word) : BitVec 4 := w.extractLsb' 24 4

/-- IMM, bits 23:0 (R90). -/
def immField (w : Word) : BitVec 24 := w.extractLsb' 0 24

/-- The opcode's number, the value of OPC and of STATUS.OP (R93, R37). -/
def Opcode.bits : Opcode → BitVec 4
  | .nop => 0
  | .init => 1
  | .synd => 2
  | .build => 3
  | .rdrow => 4
  | .ser => 5
  | .run => 6

/-- The opcode with the given number; 7 to 15 are reserved (R93, R95). -/
def Opcode.ofBits (b : BitVec 4) : Option Opcode :=
  match b.toNat with
  | 0 => some .nop
  | 1 => some .init
  | 2 => some .synd
  | 3 => some .build
  | 4 => some .rdrow
  | 5 => some .ser
  | 6 => some .run
  | _ => none

/-- The opcode of a command (R93). -/
def Instr.opcode : Instr → Opcode
  | .nop => .nop
  | .init => .init
  | .synd _ => .synd
  | .build => .build
  | .rdrow _ => .rdrow
  | .ser => .ser
  | .run => .run

/-- Format Z: no operand, the whole of IMM must be 0 (R91). -/
def decodeZ (imm : BitVec 24) (i : Instr) : Except IllegalWord Instr :=
  if imm = 0 then .ok i else .error .immediateBits

/-- Format I12: bits 11:0 are the operand, bits 23:12 must be 0 (R91). -/
def decodeI12 (imm : BitVec 24) (f : BitVec 12 → Instr) : Except IllegalWord Instr :=
  if imm.extractLsb' 12 12 = 0 then .ok (f (imm.extractLsb' 0 12)) else .error .immediateBits

/-- The command a word is, or why it is illegal (R93, R94). -/
def decode (w : Word) : Except IllegalWord Instr :=
  match Opcode.ofBits (opcField w) with
  | none => .error .reservedOpcode
  | some op =>
    if rsvField w = 0 then
      match op with
      | .nop => decodeZ (immField w) .nop
      | .init => decodeZ (immField w) .init
      | .synd => .ok (.synd (immField w))
      | .build => decodeZ (immField w) .build
      | .rdrow => decodeI12 (immField w) .rdrow
      | .ser => decodeZ (immField w) .ser
      | .run => decodeZ (immField w) .run
    else .error .reservedBits

/-- IMM of a command's word (R91, R92). -/
def Instr.imm : Instr → BitVec 24
  | .nop => 0
  | .init => 0
  | .synd e => e
  | .build => 0
  | .rdrow s => s.setWidth 24
  | .ser => 0
  | .run => 0

/-- The word of a command: OPC at 31:28, RSV = 0, IMM at 23:0 (R90). -/
def encode (i : Instr) : Word := field i.opcode.bits 28 ||| field i.imm 0

/-- The column `match` of R93. -/
def Opcode.fixedBits : Opcode → Word
  | .nop => 0x00000000
  | .init => 0x10000000
  | .synd => 0x20000000
  | .build => 0x30000000
  | .rdrow => 0x40000000
  | .ser => 0x50000000
  | .run => 0x60000000

/-- The column `mask` of R93, the must-be-zero bits included. -/
def Opcode.fixedMask : Opcode → Word
  | .nop => 0xFFFFFFFF
  | .init => 0xFFFFFFFF
  | .synd => 0xFF000000
  | .build => 0xFFFFFFFF
  | .rdrow => 0xFFFFF000
  | .ser => 0xFFFFFFFF
  | .run => 0xFFFFFFFF

/-- The command of an assembler line; an operand outside its width is an assembly error (R101). -/
def AsmLine.assemble : AsmLine → Option Instr
  | .nop => some .nop
  | .init => some .init
  | .synd e => if AsmLine.wf (.synd e) then some (.synd (BitVec.ofNat 24 e)) else none
  | .build => some .build
  | .rdrow s => if AsmLine.wf (.rdrow s) then some (.rdrow (BitVec.ofNat 12 s)) else none
  | .ser => some .ser
  | .run => some .run

/-- The command word whose low `nbits` bits are those of `w` and whose other bits are 0. A command is
ONE 32-bit word, written whole to CMD, so no byte order enters (R62, R90, R97). -/
def tableWord (nbits w : Nat) : Word := BitVec.ofNat 32 (w % 2 ^ nbits)

/-- What the decoder reads from an opcode-table word. -/
def decodeTableWord (nbits w : Nat) : Option Instr := (decode (tableWord nbits w)).toOption

end Sys2Proof
end

