-- ==== Sys2Proof/Config.lean ====
section
/-! DEFINITION. What a build fixes (`G_ROM`, `W_MAX`; spec 00_scope.md R8, R9) and the free values:
the contents of LEADER and FOUND that reset leaves unspecified (70_reset_and_hazards.md R274). -/

namespace Sys2Proof

/-- The configuration of one build. A state holds it as a constant field, so that a statement about
every state is a statement about every configuration. REG_BASE is left out (notes/assumptions/12.md). -/
structure Config where
  /-- `G_ROM`: the rows `G[0]` to `G[11]` of the generator matrix (R8, R20). -/
  gRom : Matrix
  /-- `W_MAX`: the weight ceiling, 0 to 6; the value 7 is not a configuration (R9, U15). -/
  wMax : Fin 7
  deriving DecidableEq, Repr

/-- `G_DEF`, the spec's default generator (R8).
DESIGN CHOICE, safe: the source gives no bits of G, and no statement but those that name `gDef` or
`State.reset` rests on these (notes/assumptions/1.md). -/
def Config.gDef : Matrix :=
  #v[0xA3B001#24, 0xD1D002#24, 0xE8E004#24, 0xB47008#24, 0xDA3010#24, 0xED1020#24,
    0xF68040#24, 0xBB4080#24, 0x9DA100#24, 0x8ED200#24, 0xC76400#24, 0x7FF800#24]

/-- The default build: `G_DEF` and `W_MAX` = 6 (R8, R9; notes/assumptions/1.md). -/
def Config.default : Config := { gRom := Config.gDef, wMax := 6 }

/-- FREE VALUE, safe: what the LEADER cell at an address holds after the reset number given, until
the search writes it (R274, U4; notes/assumptions/2.md). -/
opaque Config.powerOnLeader : Nat → Syndrome → Pattern

/-- FREE VALUE, safe: what the FOUND bitmap holds after the reset number given, until `search_begin`
clears it (R274, U4; notes/assumptions/3.md). -/
opaque Config.powerOnFound : Nat → BitVec 4096

end Sys2Proof
end

