-- ==== Sys2Proof/Machine/State.lean ====
section
/-! DEFINITION. The whole state of the block as plain data (spec 10_state.md, section 1), the
environment's pending choices, the reasons a step can stop, and the state after reset
(70_reset_and_hazards.md R272). -/

namespace Sys2Proof.Machine

/-- STATE (10_state.md R31); the value 3 is never reached and has no name (U8). -/
inductive RunState where
  | idle | busy | fault
  deriving DecidableEq, Repr

/-- PHASE (10_state.md R26); the value 7 is never reached and has no name (U8). -/
inductive Phase where
  | none | init | synd | search | rdrow | serial | nop
  deriving DecidableEq, Repr

/-- ERR: no fault, or which of the three faults was raised (60_exceptions.md R230). -/
inductive ErrCode where
  | none | constantIntegrity | searchIncomplete | persistence
  deriving DecidableEq, Repr

/-- The sink's answer to one SinkPut (43_table_serializer.md R196). -/
inductive SinkAnswer where
  | ok | err
  deriving DecidableEq, Repr

/-- One turn of the environment's schedule (00_scope.md R17; 93 U5, U6). The list of turns in State is
the draw of how host actions, sequencer steps and resets interleave (notes/assumptions/5.md). -/
inductive Input where
  /-- `HostWrite(RA, v)` (R36, R97). -/
  | write (ra : BitVec 6) (v : Word)
  /-- `HostRead(RA)` (R36). -/
  | read (ra : BitVec 6)
  /-- The sequencer has the turn: its step, if it has one (R226). -/
  | run
  /-- The host's WAIT: poll STATUS until STATE is not BUSY (R101; notes/assumptions/7.md). -/
  | wait
  /-- The platform asserts and releases reset; `pendingTaken` says whether the sink takes a byte that
  was offered and not yet answered (R270, R276, U6; notes/assumptions/9.md). -/
  | reset (pendingTaken : Bool)
  deriving DecidableEq, Repr

/-- The LEADER memory: the cells written since the last reset, as (address, 24-bit cell) pairs with
strictly rising addresses (R47; notes/assumptions/14.md). -/
abbrev Memory := List (Nat × Pattern)

/-- The canonical form: addresses strictly rise and lie in 0..4095. An unlisted cell holds no value of
its own (it reads as a free value), so no listed cell can equal it. -/
abbrev Memory.wf (m : Memory) : Prop :=
  m.Pairwise (fun c d => c.1 < d.1) ∧ ∀ c ∈ m, c.1 < 4096

/-- The state of the block, its sink and its environment. -/
structure State where
  /-- `G_ROM` and `W_MAX`, constants of the build (R20, R44). -/
  cfg : Config
  /-- H[0..11] (R21). -/
  hRows : Matrix
  /-- E (R22). -/
  eReg : Pattern
  /-- S (R23). -/
  sReg : Syndrome
  /-- LEADER (R47): the cells written since the last reset. -/
  leader : Memory
  /-- FOUND (R48): bit s is FOUND[s]. -/
  found : BitVec 4096
  /-- COUNT (R40). -/
  count : BitVec 13
  /-- CAND (R41). -/
  cand : BitVec 18
  /-- STATE (R31). -/
  runState : RunState
  /-- H_VALID (R32). -/
  hValid : Bool
  /-- TABLE_VALID (R32). -/
  tableValid : Bool
  /-- OUT_COMMIT (R33). -/
  outCommit : Bool
  /-- CMDREJ (R34). -/
  cmdRej : Bool
  /-- ERR (R37). -/
  err : ErrCode
  /-- OP (R37). -/
  op : Opcode
  /-- ERRINFO (R38). -/
  errInfo : Word
  /-- PHASE (R26). -/
  phase : Phase
  /-- W (R27). -/
  w : BitVec 3
  /-- IDX[0..5] (R28). -/
  idx : Vector (BitVec 5) 6
  /-- ROW (R29). -/
  row : BitVec 12
  /-- BYTE (R29). -/
  byte : BitVec 2
  /-- OUT, the sink's content, oldest byte first (R51). -/
  out : List Byte
  /-- The model's own: the environment's coming turns, the next one first (notes/assumptions/5.md). -/
  inputs : List Input
  /-- The model's own: the sink's coming answers, the next one first; empty means that the sink has
  not answered yet (R196, U9; notes/assumptions/6.md). -/
  answers : List SinkAnswer
  /-- The model's own: what the host has read, the latest first (notes/assumptions/8.md). -/
  reads : List (BitVec 6 × Word)
  /-- The model's own: how many resets have happened since the start; it picks the free values of
  LEADER and FOUND (notes/assumptions/4.md). -/
  resets : Nat
  deriving DecidableEq, Repr

/-- Why a step can stop with a fault. The spec's three faults are no stop: they are NEXT states with
STATE = FAULT (60_exceptions.md R236). -/
inductive Fault where
  /-- Raised by the sequencer's turn alone, in STATE = BUSY with PHASE = NONE, for which R226 names no
  step. Safe: 10_state.md R53 item 1 says that no run reaches such a state (notes/assumptions/10.md). -/
  | noPhase
  deriving DecidableEq, Repr

/-- Why a step can be refused. -/
inductive Refusal where
  /-- An instruction whose meaning is not modelled. Raised by no one: every command has its meaning.
  Safe. -/
  | notModelled (mnemonic : String)
  deriving DecidableEq, Repr

/-- The machine right after power-on reset (R272), with the default configuration
(notes/assumptions/1.md) and an environment that has chosen nothing yet. -/
def State.reset : State where
  cfg := Config.default
  hRows := Vector.replicate 12 0#24
  eReg := 0
  sReg := 0
  leader := []
  found := Config.powerOnFound 0
  count := 0
  cand := 0
  runState := .idle
  hValid := false
  tableValid := false
  outCommit := false
  cmdRej := false
  err := .none
  op := .nop
  errInfo := 0
  phase := .none
  w := 0
  idx := Vector.replicate 6 0#5
  row := 0
  byte := 0
  out := []
  inputs := []
  answers := []
  reads := []
  resets := 0

end Sys2Proof.Machine
end

