-- ==== Sys2Proof/Machine/Flags.lean ====
section
/-! DEFINITION. The block's flags (spec 10_state.md R30 to R34): their packing into STATUS, the other
packed registers, the preconditions that read them (30_encoding.md R99), and the fault record. The
block has no arithmetic condition codes (R30). -/

namespace Sys2Proof.Machine

/-- STATE as its two bits (R31). -/
def RunState.bits : RunState → BitVec 2
  | .idle => 0
  | .busy => 1
  | .fault => 2

/-- PHASE as its three bits (R26). -/
def Phase.bits : Phase → BitVec 3
  | .none => 0
  | .init => 1
  | .synd => 2
  | .search => 3
  | .rdrow => 4
  | .serial => 5
  | .nop => 6

/-- ERR as its three bits (R37, R230). -/
def ErrCode.bits : ErrCode → BitVec 3
  | .none => 0
  | .constantIntegrity => 1
  | .searchIncomplete => 2
  | .persistence => 3

/-- STATUS, register 0x01: STATE 1:0, H_VALID 2, TABLE_VALID 3, OUT_COMMIT 4, CMDREJ 5, ERR 10:8,
OP 15:12, the other bits 0 (R37). -/
def status (s : State) : Word :=
  field s.runState.bits 0 ||| field (BitVec.ofBool s.hValid) 2 |||
    field (BitVec.ofBool s.tableValid) 3 ||| field (BitVec.ofBool s.outCommit) 4 |||
    field (BitVec.ofBool s.cmdRej) 5 ||| field s.err.bits 8 ||| field s.op.bits 12

/-- POS, register 0x07: PHASE 2:0, W 5:3, ROW 17:6, BYTE 19:18, the other bits 0 (R42). -/
def posWord (s : State) : Word :=
  field s.phase.bits 0 ||| field s.w 3 ||| field s.row 6 ||| field s.byte 18

/-- IDXR, register 0x08: `IDX[k]` in bits `5k+4 : 5k`, bits 31:30 are 0 (R43). -/
def idxrWord (s : State) : Word :=
  field s.idx[0] 0 ||| field s.idx[1] 5 ||| field s.idx[2] 10 ||| field s.idx[3] 15 |||
    field s.idx[4] 20 ||| field s.idx[5] 25

/-- The fault record: `{00, aux[13:0], COUNT[12:0], W[2:0]}` (R38, R236). -/
def faultRecord (aux : BitVec 14) (count : BitVec 13) (w : BitVec 3) : Word :=
  field w 0 ||| field count 3 ||| field aux 16

/-- `precond(OPC)`: SYND and BUILD need H_VALID, RDROW and SER need TABLE_VALID (R99). -/
def precond : Opcode → State → Bool
  | .nop, _ => true
  | .init, _ => true
  | .run, _ => true
  | .synd, s => s.hValid
  | .build, s => s.hValid
  | .rdrow, s => s.tableValid
  | .ser, s => s.tableValid

end Sys2Proof.Machine
end

