-- ==== Sys2Proof/Machine/Gf2.lean ====
section
/-! DEFINITION. GF(2) arithmetic on words and matrices: parity, weight, the syndrome function
(spec 41_syndrome.md R140), the derivation of H (40_generator_and_parity_check.md R124) and the rank
test (R123). -/

namespace Sys2Proof.Machine

/-- `parity(v)`: the exclusive or of all bits of v (00_scope.md R13). -/
def parity {n : Nat} (v : BitVec n) : Bool :=
  (List.range n).foldl (fun acc j => acc ^^ v.getLsbD j) false

/-- The set positions of v, ascending. -/
def positions {n : Nat} (v : BitVec n) : List Nat := (List.range n).filter v.getLsbD

/-- `wt(v)`: the number of 1 bits of v (00_scope.md R13). -/
def weight {n : Nat} (v : BitVec n) : Nat := (positions v).length

/-- Row i of a matrix (R12); 0 outside 0..11, which no rule names. -/
def rowAt (m : Matrix) (i : Nat) : Pattern := m[i]?.getD 0

/-- `syndrome(H, e)`: bit i is the parity of row i of H and e (41_syndrome.md R140). -/
def syndrome (h : Matrix) (e : Pattern) : Syndrome :=
  bitsOf 12 (fun i => parity (rowAt h i &&& e))

/-- `derive_row(G, i)` (40_generator_and_parity_check.md R124). -/
def deriveRow (g : Matrix) (i : Nat) : Pattern :=
  bitsOf 24 (fun j => if j < 12 then (rowAt g j).getLsbD (12 + i) else j == 12 + i)

/-- H as the INIT step derives it from G: all twelve rows (R122, R124). -/
def deriveH (g : Matrix) : Matrix :=
  #v[deriveRow g 0, deriveRow g 1, deriveRow g 2, deriveRow g 3, deriveRow g 4, deriveRow g 5,
    deriveRow g 6, deriveRow g 7, deriveRow g 8, deriveRow g 9, deriveRow g 10, deriveRow g 11]

/-- The least index p >= r below 12 whose row has a 1 in column c (R123). -/
def findPivot (rows : List Pattern) (c r : Nat) : Option Nat :=
  (List.range 12).find? (fun p => decide (r ≤ p) && (rows.getD p 0).getLsbD c)

/-- Rows r and p exchanged (R123). -/
def swapRows (rows : List Pattern) (r p : Nat) : List Pattern :=
  (rows.set r (rows.getD p 0)).set p (rows.getD r 0)

/-- Row r added to every other row with a 1 in column c (R123). -/
def clearColumn (rows : List Pattern) (c r : Nat) : List Pattern :=
  (List.range 12).map fun i =>
    if i ≠ r ∧ (rows.getD i 0).getLsbD c then rows.getD i 0 ^^^ rows.getD r 0 else rows.getD i 0

/-- The elimination of R123 over the columns given, with r pivots found so far; it stops at r = 12. -/
def eliminate : List Nat → List Pattern → Nat → Nat
  | [], _, r => r
  | c :: cs, rows, r =>
    if r = 12 then r
    else
      match findPivot rows c r with
      | none => eliminate cs rows r
      | some p => eliminate cs (clearColumn (swapRows rows r p) c r) (r + 1)

/-- `rank12(G)`: the rank over GF(2) of the twelve rows, 0..12 (R123). -/
def rank12 (g : Matrix) : Nat := eliminate (List.range 24) g.toList 0

/-- The combination of rows that the bits of m select: the exclusive or over r with m[r] = 1 of G[r]
(41_syndrome.md R149). -/
def rowCombination (g : Matrix) (m : BitVec 12) : Pattern :=
  (List.range 12).foldl (fun acc r => if m.getLsbD r then acc ^^^ rowAt g r else acc) 0

end Sys2Proof.Machine
end

