-- ==== Sys2Proof/Machine/Operands.lean ====
section
/-! DEFINITION. The operands a phase forms from the sequencer position: the candidate pattern of the
search and its successor (spec 42_coset_leader_search.md R163, R168, R170), and the byte, markers and
offset of the serializer (43_table_serializer.md R198). -/

namespace Sys2Proof.Machine

/-- `IDX[k]` as a number; 0 past the last entry, which no rule reads while W <= 6. -/
def idxAt (idx : Vector (BitVec 5) 6) (k : Nat) : Nat := (idx[k]?.getD 0).toNat

/-- The index tuple whose entry k is `f k` (R28). -/
def idxOf (f : Nat → BitVec 5) : Vector (BitVec 5) 6 := #v[f 0, f 1, f 2, f 3, f 4, f 5]

/-- `pattern(W, IDX)`: the OR over k < W of `1 << IDX[k]` (R163). -/
def pattern (w : BitVec 3) (idx : Vector (BitVec 5) 6) : Pattern :=
  (List.range w.toNat).foldl (fun acc k => acc ||| (1#24 <<< idxAt idx k)) 0

/-- The loop of `next_comb`: the largest k below the bound with `IDX[k]` not at its largest possible
value `24 - W + k`, if there is one (R168). -/
def lastMovable (w : Nat) (idx : Vector (BitVec 5) 6) : Nat → Option Nat
  | 0 => none
  | k + 1 => if idxAt idx k = 24 - w + k then lastMovable w idx k else some k

/-- `next_comb(W, IDX)`, the lexicographic successor of a W-subset (R168). -/
def nextComb (w : BitVec 3) (idx : Vector (BitVec 5) 6) : Option (Vector (BitVec 5) 6) :=
  match lastMovable w.toNat idx w.toNat with
  | none => none
  | some k =>
    some (idxOf fun m =>
      if m < k then BitVec.ofNat 5 (idxAt idx m)
      else if m < w.toNat then BitVec.ofNat 5 (idxAt idx k + 1 + (m - k))
      else 0)

/-- The first subset of weight class W: `(0, 1, ..., W-1)`, then zeros (R170). -/
def firstComb (w : BitVec 3) : Vector (BitVec 5) 6 :=
  idxOf fun k => if k < w.toNat then BitVec.ofNat 5 k else 0

/-- Byte k of a row: bits `8k+7 : 8k` (R198, R200). -/
def byteOf (row : Pattern) (k : BitVec 2) : Byte := row.extractLsb' (8 * k.toNat) 8

/-- The `first` marker of the byte at (ROW, BYTE) (R198). -/
def isFirst (s : State) : Bool := s.row == 0 && s.byte == 0

/-- The `last` marker of the byte at (ROW, BYTE) (R198). -/
def isLast (s : State) : Bool := s.row == 4095 && s.byte == 2

/-- `3*ROW + BYTE`, the offset in the artifact of the byte at (ROW, BYTE) (R198). -/
def byteOffset (s : State) : Nat := 3 * s.row.toNat + s.byte.toNat

end Sys2Proof.Machine
end

