-- ==== Sys2Proof/Machine/Ops.lean ====
section
/-! DEFINITION. The named operations every command and phase is built from: the LEADER and FOUND
memories, the register port's read, rejecting and accepting a command, `search_begin`,
`serial_begin`, `complete`, `raise` (the one fault entry), the sink, and reset (the one exit from a
fault; spec 60_exceptions.md R240). -/

namespace Sys2Proof.Machine

/-! ## LEADER and FOUND -/

/-- The cell listed at an address, if the address has been written since reset. -/
def Memory.read : Memory → Nat → Option Pattern
  | [], _ => none
  | (b, u) :: rest, a => if b = a then some u else Memory.read rest a

/-- The memory with the cell at an address set; the canonical form is kept. -/
def Memory.write : Memory → Nat → Pattern → Memory
  | [], a, v => [(a, v)]
  | (b, u) :: rest, a, v =>
    if a < b then (a, v) :: (b, u) :: rest
    else if a = b then (a, v) :: rest
    else (b, u) :: Memory.write rest a v

/-- `MemRead(LEADER, a)`. A cell that nothing has written since reset reads as a free value
(70_reset_and_hazards.md R274, U4; notes/assumptions/2.md; safe). -/
def leaderAt (s : State) (a : Syndrome) : Pattern :=
  (s.leader.read a.toNat).getD (Config.powerOnLeader s.resets a)

/-- `MemRead(FOUND, a)`. -/
def foundAt (s : State) (a : Syndrome) : Bool := s.found.getLsbD a.toNat

/-- `MemWrite(FOUND, a, 1)` on the bitmap. -/
def setFound (f : BitVec 4096) (a : Syndrome) : BitVec 4096 := f ||| (1#4096 <<< a.toNat)

/-- The recording of a leader, one indivisible action: FOUND[a] set, LEADER[a] written and COUNT
incremented (20_memory.md R66, 42_coset_leader_search.md R164). -/
def recordLeader (a : Syndrome) (e : Pattern) (s : State) : State :=
  { s with
    found := setFound s.found a
    leader := s.leader.write a.toNat e
    count := s.count + 1 }

/-! ## The host's register read -/

/-- `HostRead(RA)`: the register map (10_state.md R35 to R45). It is a value only: a read changes no
state (R36). -/
def hostRead (s : State) (ra : BitVec 6) : Word :=
  if ra = 0x01 then status s
  else if ra = 0x02 then s.errInfo
  else if ra = 0x03 then s.eReg.setWidth 32
  else if ra = 0x04 then s.sReg.setWidth 32
  else if ra = 0x05 then s.count.setWidth 32
  else if ra = 0x06 then s.cand.setWidth 32
  else if ra = 0x07 then posWord s
  else if ra = 0x08 then idxrWord s
  else if ra = 0x09 then BitVec.ofNat 32 s.cfg.wMax.val
  else if 0x10 ≤ ra.toNat ∧ ra.toNat ≤ 0x1B then (rowAt s.cfg.gRom (ra.toNat - 0x10)).setWidth 32
  else if 0x20 ≤ ra.toNat ∧ ra.toNat ≤ 0x2B then (rowAt s.hRows (ra.toNat - 0x20)).setWidth 32
  else 0

/-! ## Rejecting and accepting a command -/

/-- `reject`: CMDREJ is set and nothing else changes (30_encoding.md R100). -/
def reject (s : State) : State := { s with cmdRej := true }

/-- The part of `accept(w)` that every command shares: CMDREJ cleared, OP latched, STATE to BUSY
(30_encoding.md R98). -/
def acceptOp (op : Opcode) (s : State) : State :=
  { s with cmdRej := false, op := op, runState := .busy }

/-- The write of a legal command word to CMD (30_encoding.md R97): rejected unless STATE is IDLE and
the opcode's precondition holds, else accepted with the opcode's further effect. -/
def issue (op : Opcode) (further : State → State) (s : State) :
    Host.Outcome State Fault Refusal :=
  if s.runState = .idle ∧ precond op s = true then .next (further (acceptOp op s))
  else .next (reject s)

/-! ## Beginning and completing phases -/

/-- `search_begin()` (42_coset_leader_search.md R162). LEADER is not cleared. -/
def searchBegin (s : State) : State :=
  { s with
    tableValid := false
    found := 0
    count := 0
    cand := 0
    w := 0
    idx := Vector.replicate 6 0#5
    phase := .search }

/-- `serial_begin()` (43_table_serializer.md R194). OUT is not touched. -/
def serialBegin (s : State) : State :=
  { s with outCommit := false, row := 0, byte := 0, phase := .serial }

/-- The last branch of `complete()`: PHASE to NONE, STATE to IDLE (R224). -/
def toIdle (s : State) : State := { s with phase := .none, runState := .idle }

/-- `complete()`: RUN goes on from INIT to the search and from the search to the serializer; every
other end of a phase ends the command (44_batch_and_nop.md R224). -/
def complete (s : State) : State :=
  if s.op = .run ∧ s.phase = .init then searchBegin s
  else if s.op = .run ∧ s.phase = .search then serialBegin s
  else toIdle s

/-! ## Fault entry and the one way out -/

/-- `raise F(aux)`, the entry of each of the three faults: STATE, ERR and ERRINFO are written and
nothing else (60_exceptions.md R236). No handler is entered (R238). -/
def raise (code : ErrCode) (aux : BitVec 14) (s : State) : State :=
  { s with runState := .fault, err := code, errInfo := faultRecord aux s.count s.w }

/-- Reset, the only exit from FAULT (70_reset_and_hazards.md R270, R272): the constants, the sink's
OUT and the environment's own fields stay; LEADER and FOUND are left unspecified (R274), which is
here a new free value for each reset. -/
def hardReset (s : State) : State :=
  { s with
    hRows := Vector.replicate 12 0#24
    eReg := 0
    sReg := 0
    leader := []
    found := Config.powerOnFound (s.resets + 1)
    count := 0
    cand := 0
    runState := .idle
    hValid := false
    tableValid := false
    outCommit := false
    cmdRej := false
    err := .none
    op := .nop
    errInfo := 0
    phase := .none
    w := 0
    idx := Vector.replicate 6 0#5
    row := 0
    byte := 0
    resets := s.resets + 1 }

/-! ## The sink -/

/-- A SinkPut: the byte and its two markers (43_table_serializer.md R196). -/
structure SinkOffer where
  byte : Byte
  first : Bool
  last : Bool
  deriving DecidableEq, Repr

/-- The SinkPut the SERIAL step makes at (ROW, BYTE) (R198). -/
def sinkOffer (s : State) : SinkOffer where
  byte := byteOf (leaderAt s s.row) s.byte
  first := isFirst s
  last := isLast s

/-- What a byte answered `ok` does to OUT: `first` starts the artifact over, any other byte is
appended (R196, 10_state.md R51). -/
def sinkAccept (o : SinkOffer) (out : List Byte) : List Byte :=
  if o.first then [o.byte] else out ++ [o.byte]

/-- The first n bytes of the artifact: byte `3*s + k` is byte k of row s (R200). -/
def artifactPrefix (s : State) (n : Nat) : List Byte :=
  (List.range n).map fun i => byteOf (leaderAt s (BitVec.ofNat 12 (i / 3))) (BitVec.ofNat 2 (i % 3))

/-- The artifact: 12288 bytes, 4096 rows of three bytes in increasing syndrome order (R200). -/
def artifact (s : State) : List Byte := artifactPrefix s 12288

end Sys2Proof.Machine
end

