-- ==== Sys2Proof/Machine/Batch.lean ====
section
/-! DEFINITION. NOP and RUN (spec 44_batch_and_nop.md). `execNop` and `execRun` are the accept steps;
`nopStep` is the NOP phase's one step. -/

namespace Sys2Proof.Machine

/-- NOP (R220, R98). -/
def execNop (s : State) : Host.Outcome State Fault Refusal :=
  issue .nop (fun t => { t with phase := .nop }) s

/-- The NOP phase's step: `complete()` (R220). -/
def nopStep (s : State) : State := complete s

/-- RUN: the batch begins with the INIT phase; `complete` chains the other two (R222, R98). -/
def execRun (s : State) : Host.Outcome State Fault Refusal :=
  issue .run (fun t => { t with phase := .init }) s

end Sys2Proof.Machine
end

