-- ==== Sys2Proof/Machine/ParityCheck.lean ====
section
/-! DEFINITION. INIT: the rank check of G and the derivation of H (spec
40_generator_and_parity_check.md). `execInit` is the accept step, `initStep` the phase's one step,
which RUN takes too. -/

namespace Sys2Proof.Machine

/-- INIT (R120, R98). -/
def execInit (s : State) : Host.Outcome State Fault Refusal :=
  issue .init (fun t => { t with phase := .init }) s

/-- The INIT phase's step: the rank test first, then all twelve rows of H in this one step (R122). -/
def initStep (s : State) : State :=
  if rank12 s.cfg.gRom < 12 then
    raise .constantIntegrity (BitVec.ofNat 14 (rank12 s.cfg.gRom)) s
  else complete { s with hRows := deriveH s.cfg.gRom, hValid := true }

end Sys2Proof.Machine
end

