-- ==== Sys2Proof/Machine/Persistence.lean ====
section
/-! DEFINITION. RDROW and SER (spec 43_table_serializer.md): `execRdrow` and `execSer` are the accept
steps, `rdrowStep` the RDROW phase's one step and `serialStep` the step that sends one byte, which RUN
takes too. -/

namespace Sys2Proof.Machine

/-- RDROW s (R190, R98). -/
def execRdrow (imm12 : Syndrome) (s : State) : Host.Outcome State Fault Refusal :=
  issue .rdrow (fun t => { t with sReg := imm12, phase := .rdrow }) s

/-- The RDROW phase's step (R191). -/
def rdrowStep (s : State) : State := complete { s with eReg := leaderAt s s.sReg }

/-- SER (R192, R98): the accept step holds `serial_begin()`. -/
def execSer (s : State) : Host.Outcome State Fault Refusal := issue .ser serialBegin s

/-- The SERIAL step once the sink has answered `ok`: OUT takes the byte; the last byte commits and
completes, any other byte moves (ROW, BYTE) on (R196, R198). -/
def serialOk (s : State) : State :=
  let t := { s with out := sinkAccept (sinkOffer s) s.out }
  if isLast s then complete { t with outCommit := true }
  else if s.byte = 2 then { t with byte := 0, row := s.row + 1 }
  else { t with byte := s.byte + 1 }

/-- The SERIAL phase's step, one byte (R198). While the sink has not answered the step has not
happened and the block stays where it is (R196, R288); `err` raises PersistenceError and changes
neither OUT nor (ROW, BYTE) (R203). -/
def serialStep (s : State) : State :=
  match s.answers with
  | [] => s
  | .ok :: rest => serialOk { s with answers := rest }
  | .err :: rest =>
    raise .persistence (BitVec.ofNat 14 (byteOffset s)) { s with answers := rest }

end Sys2Proof.Machine
end

