-- ==== Sys2Proof/Machine/Search.lean ====
section
/-! DEFINITION. BUILD: the coset-leader search (spec 42_coset_leader_search.md). `execBuild` is the
accept step, `searchStep` the step that examines one candidate, which RUN takes too. -/

namespace Sys2Proof.Machine

/-- BUILD (R160, R98): the accept step holds `search_begin()`. -/
def execBuild (s : State) : Host.Outcome State Fault Refusal := issue .build searchBegin s

/-- The first half of the SEARCH step: the candidate is counted, and recorded if its syndrome has not
been found yet, so that the first seen wins (R164, R165). -/
def examine (s : State) : State :=
  let e := pattern s.w s.idx
  let a := syndrome s.hRows e
  let t := { s with cand := s.cand + 1 }
  if foundAt s a then t else recordLeader a e t

/-- The second half of the SEARCH step: stop at 4096 syndromes (R166), else the next subset of the
class (R168), else the next class (R170), else SearchIncompleteError (R171). -/
def advance (s : State) : State :=
  if s.count = 4096 then complete { s with tableValid := true }
  else
    match nextComb s.w s.idx with
    | some idx => { s with idx := idx }
    | none =>
      if s.w.toNat < s.cfg.wMax.val then { s with w := s.w + 1, idx := firstComb (s.w + 1) }
      else raise .searchIncomplete 0 s

/-- The SEARCH phase's step, one candidate (R164). -/
def searchStep (s : State) : State := advance (examine s)

end Sys2Proof.Machine
end

