-- ==== Sys2Proof/Machine/SyndromeCommand.lean ====
section
/-! DEFINITION. SYND (spec 41_syndrome.md): `execSynd` is the accept step, which latches E, and
`syndStep` the phase's one step, which writes S. -/

namespace Sys2Proof.Machine

/-- SYND e (R145, R98). -/
def execSynd (imm24 : Pattern) (s : State) : Host.Outcome State Fault Refusal :=
  issue .synd (fun t => { t with eReg := imm24, phase := .synd }) s

/-- The SYND phase's step (R146). -/
def syndStep (s : State) : State := complete { s with sReg := syndrome s.hRows s.eReg }

end Sys2Proof.Machine
end

