-- ==== Sys2Proof/Machine/Dispatch.lean ====
section
/-! DEFINITION. One arm per command: what writing the command's word to CMD does
(spec 30_encoding.md R97, R98). -/

namespace Sys2Proof.Machine

def exec (i : Instr) (s : State) : Host.Outcome State Fault Refusal :=
  match i with
  | .nop => Sys2Proof.Machine.execNop s
  | .init => Sys2Proof.Machine.execInit s
  | .synd imm24 => Sys2Proof.Machine.execSynd imm24 s
  | .build => Sys2Proof.Machine.execBuild s
  | .rdrow imm12 => Sys2Proof.Machine.execRdrow imm12 s
  | .ser => Sys2Proof.Machine.execSer s
  | .run => Sys2Proof.Machine.execRun s

end Sys2Proof.Machine
end

