-- ==== Sys2Proof/Machine/Sequencer.lean ====
section
/-! DEFINITION. The sequencer's step relation (spec 44_batch_and_nop.md R226, 10_state.md R26). -/

namespace Sys2Proof.Machine

/-- The sequencer's turn: one step while STATE is BUSY, decided by PHASE alone; in IDLE and FAULT the
sequencer has no step and nothing changes (R226). -/
def sequencerStep (s : State) : Host.Outcome State Fault Refusal :=
  match s.runState with
  | .idle => .next s
  | .fault => .next s
  | .busy =>
    match s.phase with
    | .none => .fault .noPhase
    | .init => .next (initStep s)
    | .synd => .next (syndStep s)
    | .search => .next (searchStep s)
    | .rdrow => .next (rdrowStep s)
    | .serial => .next (serialStep s)
    | .nop => .next (nopStep s)

end Sys2Proof.Machine
end

