-- ==== Sys2Proof/Machine/HostPort.lean ====
section
/-! DEFINITION. The turns of the environment: the host's register port (spec 10_state.md R36,
30_encoding.md R96, R97), the sequencer's turn, WAIT (R101) and reset (70_reset_and_hazards.md R270,
R276). -/

namespace Sys2Proof.Machine

/-- `HostWrite(RA, v)`: a command write at RA = 0, where an illegal word is rejected; at any other RA
nothing happens (R36, R45, R94, R97). -/
def hostWrite (ra : BitVec 6) (v : Word) (s : State) : Host.Outcome State Fault Refusal :=
  if ra = 0 then
    match decode v with
    | .ok i => exec i s
    | .error _ => .next (reject s)
  else .next s

/-- `HostRead(RA)`: the value goes to the host, and no state of the block changes (R36). -/
def hostReadTurn (ra : BitVec 6) (s : State) : State :=
  { s with reads := (ra, hostRead s ra) :: s.reads }

/-- Reset by the platform. A byte that the block was offering to the sink may be taken or not (R276,
U6); then the reset state follows. -/
def platformReset (pendingTaken : Bool) (s : State) : State :=
  if pendingTaken ∧ s.runState = .busy ∧ s.phase = .serial then
    hardReset { s with out := sinkAccept (sinkOffer s) s.out }
  else hardReset s

/-- One turn: the next one of the environment's schedule, or the sequencer's where the schedule holds
no further turn (progress assumption (a) of 70_reset_and_hazards.md R288). WAIT keeps its place while
STATE is BUSY and lets the sequencer step between its polls. -/
def turn (s : State) : Host.Outcome State Fault Refusal :=
  match s.inputs with
  | [] => sequencerStep s
  | .write ra v :: rest => hostWrite ra v { s with inputs := rest }
  | .read ra :: rest => .next (hostReadTurn ra { s with inputs := rest })
  | .run :: rest => sequencerStep { s with inputs := rest }
  | .wait :: rest =>
    if s.runState = .busy then sequencerStep s else .next { s with inputs := rest }
  | .reset pendingTaken :: rest => .next (platformReset pendingTaken { s with inputs := rest })

/-- The host writes a command word as its next turn (R96). -/
def placeCommand (v : Word) (s : State) : State := { s with inputs := .write 0 v :: s.inputs }

end Sys2Proof.Machine
end

