-- ==== Sys2Proof/Machine/Step.lean ====
section
/-! DEFINITION. One step of the whole machine, and the word the next step runs. The block fetches no
instruction (spec 20_memory.md R75): a command runs when the host writes it to CMD. -/

namespace Sys2Proof.Machine

/-- One step: the next turn of the environment's schedule, else the sequencer's. -/
def step (s : State) : Host.Outcome State Fault Refusal := Sys2Proof.Machine.turn s

/-- The state with the opcode-table word as the host's very next command write
(notes/assumptions/5.md). -/
def State.withFetchWord (s : State) (nbits w : Nat) : State :=
  Sys2Proof.Machine.placeCommand (Sys2Proof.tableWord nbits w) s

end Sys2Proof.Machine
end

