-- ==== Sys2Proof/Safety.lean ====
section
/-! DEFINITION. What the spec says of every reachable state (10_state.md R53), as invariants of single
states, and the vocabulary of the claims: standard form, the enumeration order, the artifact. -/

namespace Sys2Proof

open Sys2Proof.Machine

/-- G is in standard form [I₁₂ | P]: `G[r][11:0] = 1 << r` (40_generator_and_parity_check.md R121).
A premise on the configuration, never a property of the hardware (R129). -/
def StandardForm (g : Matrix) : Prop :=
  ∀ r < 12, (rowAt g r).extractLsb' 0 12 = 1#12 <<< r

/-- The precondition of a command, by the flags it reads (30_encoding.md R99). -/
def CommandReady : Instr → State → Prop
  | .nop, _ => True
  | .init, _ => True
  | .run, _ => True
  | .synd _, s => s.hValid = true
  | .build, s => s.hValid = true
  | .rdrow _, s => s.tableValid = true
  | .ser, s => s.tableValid = true

/-- The next turn of the environment is a reset (70_reset_and_hazards.md R270). -/
def ResetTurn (s : State) : Prop := ∃ taken rest, s.inputs = .reset taken :: rest

/-- The next turn is the sequencer's and STATE is BUSY, so that the step is the sequencer's
(44_batch_and_nop.md R226; notes/assumptions/5.md, 7.md). -/
def SequencerTurn (s : State) : Prop :=
  s.runState = .busy ∧
    (s.inputs = [] ∨ (∃ rest, s.inputs = .run :: rest) ∨ ∃ rest, s.inputs = .wait :: rest)

/-- (W, IDX) is a W-subset of the 24 positions: a strictly rising tuple in 0..23, the entries from W
on 0 (10_state.md R28, R53 item 5). -/
def ValidComb (w : BitVec 3) (idx : Vector (BitVec 5) 6) : Prop :=
  w.toNat ≤ 6 ∧ (∀ k < w.toNat, idxAt idx k < 24) ∧
    (∀ k < w.toNat, ∀ j < k, idxAt idx j < idxAt idx k) ∧
    ∀ k < 6, w.toNat ≤ k → idxAt idx k = 0

/-- The enumeration order of the search: by weight, and within a weight class by the lexicographic
order of the index tuples (42_coset_leader_search.md R167, R169). -/
def CandidateBefore (a b : Pattern) : Prop :=
  weight a < weight b ∨ (weight a = weight b ∧ positions a < positions b)

/-- A search has begun since the last reset: FOUND, COUNT and the listed LEADER cells then belong to
the current or most recent search (R40, R48). -/
def SearchBegun (s : State) : Prop := s.phase = .search ∨ s.cand ≠ 0

/-- The opcodes in whose command a phase can stand (30_encoding.md R98, 44_batch_and_nop.md R224). -/
def phaseOf : Phase → Opcode → Prop
  | .none, _ => True
  | .init, op => op = .init ∨ op = .run
  | .synd, op => op = .synd
  | .search, op => op = .build ∨ op = .run
  | .rdrow, op => op = .rdrow
  | .serial, op => op = .ser ∨ op = .run
  | .nop, op => op = .nop

/-- The invariant of the control state: STATE, PHASE, the flags, the fault record, H, and the ranges
of the position registers (10_state.md R53 items 1 to 5; R21, R31, R32, R37, R38). -/
structure ControlInv (s : State) : Prop where
  busy_phase : s.runState = .busy → s.phase ≠ .none
  idle_phase : s.runState = .idle → s.phase = .none
  fault_phase : s.runState = .fault →
    (s.err = .constantIntegrity ∧ s.phase = .init) ∨
    (s.err = .searchIncomplete ∧ s.phase = .search) ∨
    (s.err = .persistence ∧ s.phase = .serial)
  no_fault_err : s.runState ≠ .fault → s.err = .none ∧ s.errInfo = 0
  phase_op : phaseOf s.phase s.op
  h_derived : s.hValid = true → s.hRows = deriveH s.cfg.gRom
  h_rank : s.hValid = true → 12 ≤ rank12 s.cfg.gRom
  h_reset : s.hValid = false → s.hRows = Vector.replicate 12 0#24
  table_needs_h : s.tableValid = true → s.hValid = true
  search_needs_h : SearchBegun s → s.hValid = true
  synd_needs_h : s.phase = .synd → s.hValid = true
  search_clears_table : s.phase = .search → s.tableValid = false
  read_needs_table : s.phase = .rdrow ∨ s.phase = .serial → s.tableValid = true
  serial_uncommitted : s.phase = .serial → s.outCommit = false
  w_le : s.w.toNat ≤ s.cfg.wMax.val
  byte_le : s.byte.toNat ≤ 2
  idx_valid : ValidComb s.w s.idx

/-- The invariant of the search and its memories (10_state.md R40, R47, R53 items 3, 4 and 6). -/
structure SearchInv (s : State) : Prop where
  leader_wf : Memory.wf s.leader
  found_leader : SearchBegun s → ∀ a, foundAt s a = true →
    ∃ e, s.leader.read a.toNat = some e ∧ syndrome s.hRows e = a ∧ weight e ≤ s.w.toNat
  count_found : SearchBegun s → s.count.toNat = weight s.found
  count_searching : s.phase = .search → s.count.toNat < 4096
  table_full : s.tableValid = true → s.count = 4096 ∧ ∀ a, foundAt s a = true

/-- The count of candidates: while a search is under way CAND is the number of candidates before the
one at (W, IDX), and it never exceeds the number of patterns of weight at most W_MAX
(10_state.md R41, R53 item 4; 42_coset_leader_search.md R169). -/
structure CandInv (s : State) : Prop where
  cand_exact : s.runState = .busy → s.phase = .search →
    s.cand.toNat = Set.ncard {e : Pattern | CandidateBefore e (pattern s.w s.idx)}
  cand_le : s.cand.toNat ≤ ∑ v ∈ Finset.range (s.cfg.wMax.val + 1), Nat.choose 24 v

/-- Minimality (42_coset_leader_search.md R174, R175): every candidate before the current one has its
syndrome recorded, and every recorded leader is the first of its coset in the enumeration order. -/
structure MinimalInv (s : State) : Prop where
  enumerated : s.runState = .busy → s.phase = .search → ∀ e,
    CandidateBefore e (pattern s.w s.idx) → foundAt s (syndrome s.hRows e) = true
  first_of_coset : SearchBegun s → ∀ a, foundAt s a = true → ∀ e, syndrome s.hRows e = a →
    e = leaderAt s a ∨ CandidateBefore (leaderAt s a) e

/-- The sink's content (10_state.md R33, 43_table_serializer.md R198, R202): during a serialization
that has sent a byte, OUT is the artifact's bytes up to (ROW, BYTE); under OUT_COMMIT it has 12288. -/
structure SinkInv (s : State) : Prop where
  sent_prefix : s.phase = .serial → 0 < byteOffset s → s.out = artifactPrefix s (byteOffset s)
  committed_length : s.outCommit = true → s.out.length = 12288

end Sys2Proof
end

