-- ==== Sys2Proof/Certificates/Slice0/Obligations.lean ====
section
/-! DEFINITION. The statements for the provers, from the numbered rules of spec/. Each docstring names
the rule or the section it formalises. -/

open Sys2Proof Sys2Proof.Machine

/-! ## Encoding -/

/-- 30_encoding.md sections 1 to 3: decoding an encoded command gives it back, with every operand, and
a word that decodes is the encoding of what it decodes to. -/
def Obligations.DecodeEncodeRoundTrip : Prop :=
  (∀ i : Instr, decode (encode i) = .ok i) ∧
    ∀ (w : Word) (i : Instr), decode w = .ok i → encode i = w

/-- R93: a word is the command exactly when `w & mask = match`, the table's columns written out. -/
def Obligations.MaskMatchSelectsCommand : Prop :=
  ∀ (w : Word), ∀ r ∈ [(Opcode.nop, 0x00000000#32, 0xFFFFFFFF#32),
      (Opcode.init, 0x10000000#32, 0xFFFFFFFF#32), (Opcode.synd, 0x20000000#32, 0xFF000000#32),
      (Opcode.build, 0x30000000#32, 0xFFFFFFFF#32), (Opcode.rdrow, 0x40000000#32, 0xFFFFF000#32),
      (Opcode.ser, 0x50000000#32, 0xFFFFFFFF#32), (Opcode.run, 0x60000000#32, 0xFFFFFFFF#32)],
    (∃ i, decode w = .ok i ∧ i.opcode = r.1) ↔ w &&& r.2.2 = r.2.1

/-- R92: each immediate is used as it stands, and every value of it is legal. -/
def Obligations.ImmediatesUsedAsTheyStand : Prop :=
  (∀ (w : Word) (e : Pattern), decode w = .ok (.synd e) → e = w.extractLsb' 0 24) ∧
  (∀ (w : Word) (a : Syndrome), decode w = .ok (.rdrow a) → a = w.extractLsb' 0 12) ∧
  (∀ e : Pattern, decode (0x20000000#32 ||| e.setWidth 32) = .ok (.synd e)) ∧
  ∀ a : Syndrome, decode (0x40000000#32 ||| a.setWidth 32) = .ok (.rdrow a)

/-- 30_encoding.md section 4: which words are illegal and what writing one does in every state (R94,
R95), and how many words each command has (the counts of R94, which the spec marks as derived). -/
def Obligations.IllegalWordsAreRejected : Prop :=
  (∀ w : Word, (∃ r, decode w = .error r) ↔
    (7 ≤ (w.extractLsb' 28 4).toNat ∨ w.extractLsb' 24 4 ≠ 0 ∨
      ((w.extractLsb' 28 4).toNat ∈ [0, 1, 3, 5, 6] ∧ w.extractLsb' 0 24 ≠ 0) ∨
      ((w.extractLsb' 28 4).toNat = 4 ∧ w.extractLsb' 12 12 ≠ 0))) ∧
  (∀ (w : Word) r (s : State), decode w = .error r →
    hostWrite 0 w s = .next { s with cmdRej := true }) ∧
  Set.ncard {w : Word | ∃ e, decode w = .ok (.synd e)} = 2 ^ 24 ∧
  Set.ncard {w : Word | ∃ a, decode w = .ok (.rdrow a)} = 4096 ∧
  ∀ i ∈ [Instr.nop, .init, .build, .ser, .run], Set.ncard {w : Word | decode w = .ok i} = 1

/-- 30_encoding.md section 3: one word of each command, spelled from the tables. -/
def Obligations.SpelledWordsDecode : Prop :=
  decode 0x00000000 = .ok .nop ∧ decode 0x10000000 = .ok .init ∧
  decode 0x20020021 = .ok (.synd 0x020021) ∧ decode 0x30000000 = .ok .build ∧
  decode 0x400004CA = .ok (.rdrow 0x4CA) ∧ decode 0x50000000 = .ok .ser ∧
  decode 0x60000000 = .ok .run ∧ decode 0x70000000 = .error .reservedOpcode ∧
  decode 0x01000000 = .error .reservedBits ∧ decode 0x40001000 = .error .immediateBits

/-- 30_encoding.md section 6: the words of the assembler lines, and that an operand outside its width is
an assembly error. -/
def Obligations.AssemblerLinesHaveTheirWords : Prop :=
  AsmLine.nop.assemble.map encode = some 0x00000000 ∧
  AsmLine.init.assemble.map encode = some 0x10000000 ∧
  AsmLine.build.assemble.map encode = some 0x30000000 ∧
  AsmLine.ser.assemble.map encode = some 0x50000000 ∧
  AsmLine.run.assemble.map encode = some 0x60000000 ∧
  (∀ e < 2 ^ 24,
    (AsmLine.synd e).assemble.map encode = some (0x20000000#32 ||| BitVec.ofNat 32 e)) ∧
  (∀ e, 2 ^ 24 ≤ e → (AsmLine.synd e).assemble = none) ∧
  (∀ a < 2 ^ 12,
    (AsmLine.rdrow a).assemble.map encode = some (0x40000000#32 ||| BitVec.ofNat 32 a)) ∧
  ∀ a, 2 ^ 12 ≤ a → (AsmLine.rdrow a).assemble = none

/-! ## The host's turns -/

/-- 30_encoding.md section 5, 00_scope.md section 5: a step runs the decoded command when the host
writes its word to CMD; and what step does at every other turn: a host write or read, the sequencer's
turn, WAIT, a reset, and an exhausted schedule. The schedule is the model's own
(notes/assumptions/5.md, 7.md, 8.md, 9.md). -/
def Obligations.StepRunsDecodedCommand : Prop :=
  (∀ (s : State) w i rest, s.inputs = .write 0 w :: rest → decode w = .ok i →
    step s = exec i { s with inputs := rest }) ∧
  (∀ (s : State) ra v rest, s.inputs = .write ra v :: rest →
    step s = hostWrite ra v { s with inputs := rest }) ∧
  (∀ (s : State) ra rest, s.inputs = .read ra :: rest →
    step s = .next { s with inputs := rest, reads := (ra, hostRead s ra) :: s.reads }) ∧
  (∀ s : State, s.inputs = [] → step s = sequencerStep s) ∧
  (∀ (s : State) rest, s.inputs = .run :: rest → step s = sequencerStep { s with inputs := rest }) ∧
  (∀ (s : State) rest, s.inputs = .wait :: rest → s.runState = .busy →
    step s = sequencerStep s) ∧
  (∀ (s : State) rest, s.inputs = .wait :: rest → s.runState ≠ .busy →
    step s = .next { s with inputs := rest }) ∧
  ∀ (s : State) taken rest, s.inputs = .reset taken :: rest →
    step s = .next (platformReset taken { s with inputs := rest })

/-- R97, R99, R100: a CMD write is rejected, with CMDREJ the only change, when STATE is not IDLE, the
word is illegal or the precondition fails; else it is accepted. -/
def Obligations.CommandWriteAcceptsOrRejects : Prop :=
  ∀ (w : Word) (s : State),
    ((s.runState ≠ .idle ∨ (∃ r, decode w = .error r) ∨ ∃ i, decode w = .ok i ∧ ¬ CommandReady i s) →
      hostWrite 0 w s = .next { s with cmdRej := true }) ∧
    ∀ i, s.runState = .idle → decode w = .ok i → CommandReady i s →
      ∃ t, hostWrite 0 w s = .next t ∧ t.cmdRej = false ∧ t.op = i.opcode ∧ t.runState = .busy

/-- R98, R162, R194: what the accept step of each command writes, and that it writes nothing else. -/
def Obligations.AcceptStepOfEachCommand : Prop :=
  ∀ s : State, s.runState = .idle →
    exec .nop s = .next { s with cmdRej := false, op := .nop, runState := .busy, phase := .nop } ∧
    exec .init s = .next { s with cmdRej := false, op := .init, runState := .busy, phase := .init } ∧
    exec .run s = .next { s with cmdRej := false, op := .run, runState := .busy, phase := .init } ∧
    (s.hValid = true → ∀ e, exec (.synd e) s =
      .next { s with cmdRej := false, op := .synd, runState := .busy, eReg := e, phase := .synd }) ∧
    (s.hValid = true → ∃ t, exec .build s = .next t ∧ (∀ a, foundAt t a = false) ∧
      t = { s with
        cmdRej := false, op := .build, runState := .busy, tableValid := false, found := 0,
        count := 0, cand := 0, w := 0, idx := #v[0, 0, 0, 0, 0, 0], phase := .search }) ∧
    (s.tableValid = true → ∀ a, exec (.rdrow a) s =
      .next { s with cmdRej := false, op := .rdrow, runState := .busy, sReg := a, phase := .rdrow }) ∧
    (s.tableValid = true → exec .ser s = .next { s with
      cmdRej := false, op := .ser, runState := .busy, outCommit := false, row := 0, byte := 0,
      phase := .serial })

/-- R35, R36, R45: the register map, that a read changes nothing of the block (only `reads`, the
model's own record of what the host read, notes/assumptions/8.md), that a write to any register but CMD
changes nothing, and that a write to CMD is a command write. -/
def Obligations.RegisterPort : Prop :=
  (∀ s : State, hostRead s 0x00 = 0 ∧ hostRead s 0x01 = status s ∧ hostRead s 0x02 = s.errInfo ∧
    (hostRead s 0x03).toNat = s.eReg.toNat ∧ (hostRead s 0x04).toNat = s.sReg.toNat ∧
    (hostRead s 0x05).toNat = s.count.toNat ∧ (hostRead s 0x06).toNat = s.cand.toNat ∧
    hostRead s 0x07 = posWord s ∧ hostRead s 0x08 = idxrWord s ∧
    (hostRead s 0x09).toNat = s.cfg.wMax.val) ∧
  (∀ (s : State) i (h : i < 12),
    (hostRead s (BitVec.ofNat 6 (0x10 + i))).toNat = (s.cfg.gRom[i]).toNat ∧
    (hostRead s (BitVec.ofNat 6 (0x20 + i))).toNat = (s.hRows[i]).toNat) ∧
  (∀ (s : State) (ra : BitVec 6), ((0x0A ≤ ra.toNat ∧ ra.toNat ≤ 0x0F) ∨
    (0x1C ≤ ra.toNat ∧ ra.toNat ≤ 0x1F) ∨ 0x2C ≤ ra.toNat) → hostRead s ra = 0) ∧
  (∀ (s : State) ra, hostReadTurn ra s = { s with reads := (ra, hostRead s ra) :: s.reads }) ∧
  (∀ (s : State) ra v, ra ≠ 0 → hostWrite ra v s = .next s) ∧
  ∀ (s : State) v, hostWrite 0 v s = match decode v with
    | .ok i => exec i s
    | .error _ => .next { s with cmdRej := true }

/-- 10_state.md section 5: every field of STATUS stands at its bits, the unassigned bits read 0, and in
a state that meets the control invariant ERR is nonzero exactly in FAULT. -/
def Obligations.StatusFields : Prop :=
  ∀ s : State,
    ((hostRead s 1).extractLsb' 0 2 = match s.runState with | .idle => 0 | .busy => 1 | .fault => 2) ∧
    (hostRead s 1).getLsbD 2 = s.hValid ∧ (hostRead s 1).getLsbD 3 = s.tableValid ∧
    (hostRead s 1).getLsbD 4 = s.outCommit ∧ (hostRead s 1).getLsbD 5 = s.cmdRej ∧
    (hostRead s 1).extractLsb' 6 2 = 0 ∧
    ((hostRead s 1).extractLsb' 8 3 = match s.err with
      | .none => 0 | .constantIntegrity => 1 | .searchIncomplete => 2 | .persistence => 3) ∧
    (hostRead s 1).getLsbD 11 = false ∧
    ((hostRead s 1).extractLsb' 12 4 = match s.op with
      | .nop => 0 | .init => 1 | .synd => 2 | .build => 3 | .rdrow => 4 | .ser => 5 | .run => 6) ∧
    (hostRead s 1).extractLsb' 16 16 = 0 ∧
    (ControlInv s → ((hostRead s 1).extractLsb' 8 3 ≠ 0 ↔ (hostRead s 1).extractLsb' 0 2 = 2))

/-- R42, R43, R44: the fields of POS, IDXR and CONFIG. -/
def Obligations.PositionRegisterFields : Prop :=
  ∀ s : State,
    ((hostRead s 7).extractLsb' 0 3 = match s.phase with
      | .none => 0 | .init => 1 | .synd => 2 | .search => 3 | .rdrow => 4 | .serial => 5
      | .nop => 6) ∧
    (hostRead s 7).extractLsb' 3 3 = s.w ∧ (hostRead s 7).extractLsb' 6 12 = s.row ∧
    (hostRead s 7).extractLsb' 18 2 = s.byte ∧ (hostRead s 7).extractLsb' 20 12 = 0 ∧
    (∀ k (h : k < 6), (hostRead s 8).extractLsb' (5 * k) 5 = s.idx[k]) ∧
    (hostRead s 8).extractLsb' 30 2 = 0 ∧
    ((hostRead s 9).extractLsb' 0 3).toNat = s.cfg.wMax.val ∧
    (hostRead s 9).extractLsb' 3 29 = 0 ∧
    ∀ t, step s = .next t → hostRead t 9 = hostRead s 9

/-! ## Commands, from the accept step to their end -/

/-- 44_batch_and_nop.md: NOP is accepted whenever STATE is IDLE, its one step ends it with nothing
changed but CMDREJ and OP, and in FAULT it is rejected. -/
def Obligations.NopCompletes : Prop :=
  (∀ s : State, s.runState = .idle → ∃ t, exec .nop s = .next t ∧
    sequencerStep t =
      .next { s with cmdRej := false, op := .nop, phase := .none, runState := .idle }) ∧
  ∀ s : State, s.runState = .fault → exec .nop s = .next { s with cmdRej := true }

/-- 40_generator_and_parity_check.md section 1: INIT with a G of rank 12 ends with H derived and
H_VALID set, and nothing else changed; with a lower rank it ends in ConstantIntegrityError with H and
H_VALID as they were. -/
def Obligations.InitCompletes : Prop :=
  ∀ s : State, s.runState = .idle → ∃ t, exec .init s = .next t ∧
    (12 ≤ rank12 s.cfg.gRom → sequencerStep t = .next { s with
      cmdRej := false, op := .init, hRows := deriveH s.cfg.gRom, hValid := true,
      phase := .none, runState := .idle }) ∧
    (rank12 s.cfg.gRom < 12 → sequencerStep t = .next { s with
      cmdRej := false, op := .init, phase := .init, runState := .fault, err := .constantIntegrity,
      errInfo := faultRecord (BitVec.ofNat 14 (rank12 s.cfg.gRom)) s.count s.w })

/-- 41_syndrome.md section 3: SYND e ends with E = e and S the syndrome of e, nothing else changed. -/
def Obligations.SyndCompletes : Prop :=
  ∀ (s : State) (e : Pattern), s.runState = .idle → s.hValid = true →
    ∃ t, exec (.synd e) s = .next t ∧ sequencerStep t = .next { s with
      cmdRej := false, op := .synd, eReg := e, sReg := syndrome s.hRows e,
      phase := .none, runState := .idle }

/-- 43_table_serializer.md section 1: RDROW a ends with S = a and E the cell LEADER[a], nothing else
changed. -/
def Obligations.RdrowCompletes : Prop :=
  ∀ (s : State) (a : Syndrome), s.runState = .idle → s.tableValid = true →
    ∃ t, exec (.rdrow a) s = .next t ∧ sequencerStep t = .next { s with
      cmdRej := false, op := .rdrow, sReg := a, eReg := leaderAt s a,
      phase := .none, runState := .idle }

/-- 44_batch_and_nop.md: RUN goes from its INIT step straight into a fresh search, STATE staying BUSY;
with a G of rank below 12 it ends in ConstantIntegrityError before any search has begun. -/
def Obligations.RunBeginsTheBatch : Prop :=
  ∀ s : State, s.runState = .idle → ∃ t, exec .run s = .next t ∧
    (12 ≤ rank12 s.cfg.gRom → sequencerStep t = .next { s with
      cmdRej := false, op := .run, runState := .busy, hRows := deriveH s.cfg.gRom, hValid := true,
      tableValid := false, found := 0, count := 0, cand := 0, w := 0,
      idx := #v[0, 0, 0, 0, 0, 0], phase := .search }) ∧
    (rank12 s.cfg.gRom < 12 → sequencerStep t = .next { s with
      cmdRej := false, op := .run, phase := .init, runState := .fault, err := .constantIntegrity,
      errInfo := faultRecord (BitVec.ofNat 14 (rank12 s.cfg.gRom)) s.count s.w })

/-- 70_reset_and_hazards.md section 5, 42_coset_leader_search.md sections 2 to 5: an accepted BUILD, the
schedule left to the sequencer, ends within the number of patterns of weight at most W_MAX; CAND counts
its steps; it ends complete with 4096 syndromes, or in SearchIncompleteError after the full number. The
premise on `inputs` is about the model's own schedule (notes/assumptions/5.md): no other turn comes in
between. -/
def Obligations.BuildTerminates : Prop :=
  ∀ s : State, s.runState = .idle → s.hValid = true → s.inputs = [] →
    ∃ t n u, exec .build s = .next t ∧ Host.Core.run core n t = .next u ∧
      n ≤ ∑ v ∈ Finset.range (s.cfg.wMax.val + 1), Nat.choose 24 v ∧ u.cand.toNat = n ∧
      ((u.runState = .idle ∧ u.tableValid = true ∧ u.count = 4096 ∧ u.err = s.err) ∨
        (u.runState = .fault ∧ u.err = .searchIncomplete ∧ u.tableValid = false ∧
          u.count ≠ 4096 ∧ u.w.toNat = s.cfg.wMax.val ∧
          n = ∑ v ∈ Finset.range (s.cfg.wMax.val + 1), Nat.choose 24 v))

/-- 43_table_serializer.md sections 2 and 3: SER, with a sink that answers `ok` to every byte and the
schedule left to the sequencer, ends after exactly 12288 steps with OUT the whole artifact, OUT_COMMIT
set, (ROW, BYTE) on the last byte and nothing else changed. The premises on `inputs` and `answers` are
about the model's own schedule and answers (notes/assumptions/5.md, 6.md): no other turn comes in
between. -/
def Obligations.SerSendsTheWholeArtifact : Prop :=
  ∀ (s : State) rest, s.runState = .idle → s.tableValid = true → s.inputs = [] →
    s.answers = List.replicate 12288 SinkAnswer.ok ++ rest →
    ∃ t, exec .ser s = .next t ∧ Host.Core.run core 12288 t = .next { s with
      cmdRej := false, op := .ser, phase := .none, runState := .idle, row := 4095, byte := 2,
      outCommit := true, out := artifact s, answers := rest }

/-! ## The sequencer's steps -/

/-- R122: the INIT step checks the rank first and derives all twelve rows only after it passes. -/
def Obligations.InitStepChecksThenDerives : Prop :=
  ∀ s : State, s.runState = .busy → s.phase = .init →
    (rank12 s.cfg.gRom < 12 → sequencerStep s = .next { s with
      runState := .fault, err := .constantIntegrity,
      errInfo := faultRecord (BitVec.ofNat 14 (rank12 s.cfg.gRom)) s.count s.w }) ∧
    (12 ≤ rank12 s.cfg.gRom → ∃ h : Matrix, (∀ i < 12, rowAt h i = deriveRow s.cfg.gRom i) ∧
      sequencerStep s = .next (complete { s with hRows := h, hValid := true }))

/-- R224: `complete()` chains the phases of RUN and ends every other command, and it is the only way of
the sequencer from BUSY to IDLE. -/
def Obligations.CompleteChainsRun : Prop :=
  (∀ s : State, s.op = .run → s.phase = .init → complete s = { s with
    tableValid := false, found := 0, count := 0, cand := 0, w := 0,
    idx := #v[0, 0, 0, 0, 0, 0], phase := .search }) ∧
  (∀ s : State, s.op = .run → s.phase = .search → complete s =
    { s with outCommit := false, row := 0, byte := 0, phase := .serial }) ∧
  (∀ s : State, (s.op ≠ .run ∨ (s.phase ≠ .init ∧ s.phase ≠ .search)) → complete s =
    { s with phase := .none, runState := .idle }) ∧
  ∀ s t : State, s.runState = .busy → sequencerStep s = .next t → t.runState = .idle →
    ∃ u, u.op = s.op ∧ u.phase = s.phase ∧ t = complete u

/-- R146: the SYND step. -/
def Obligations.SyndStepWritesSyndrome : Prop :=
  ∀ s : State, s.runState = .busy → s.phase = .synd →
    sequencerStep s = .next (complete { s with sReg := syndrome s.hRows s.eReg })

/-- R191: the RDROW step. -/
def Obligations.RdrowStepReadsTheRow : Prop :=
  ∀ s : State, s.runState = .busy → s.phase = .rdrow →
    sequencerStep s = .next (complete { s with eReg := leaderAt s s.sReg })

/-- R66, R165: first seen wins. A SEARCH step writes a LEADER cell, its FOUND bit and COUNT only if the
bit was 0, all in the one step; a candidate whose syndrome was found changes only CAND of these; no
other cell or bit changes. -/
def Obligations.FirstSeenCandidateWins : Prop :=
  ∀ s : State, s.runState = .busy → s.phase = .search →
    ∃ t, sequencerStep s = .next t ∧ t.cand = s.cand + 1 ∧
      (∀ a, a = syndrome s.hRows (pattern s.w s.idx) →
        (foundAt s a = true → t.leader = s.leader ∧ t.found = s.found ∧ t.count = s.count) ∧
        (foundAt s a = false → foundAt t a = true ∧ leaderAt t a = pattern s.w s.idx ∧
          t.count = s.count + 1) ∧
        ∀ b, b ≠ a → foundAt t b = foundAt s b ∧ leaderAt t b = leaderAt s b) ∧
      t.hRows = s.hRows ∧ t.eReg = s.eReg ∧ t.sReg = s.sReg ∧ t.out = s.out

/-- R166, R170 and the ceiling: after the recording the SEARCH step stops at 4096 syndromes with W and
IDX left, else moves to the successor, else to the next class's first subset, else raises
SearchIncompleteError. -/
def Obligations.SearchStepAdvances : Prop :=
  ∀ s t : State, s.runState = .busy → s.phase = .search → sequencerStep s = .next t →
    (t.count = 4096 → t.tableValid = true ∧ t.w = s.w ∧ t.idx = s.idx ∧
      (s.op = .run → t.phase = .serial ∧ t.runState = .busy) ∧
      (s.op ≠ .run → t.phase = .none ∧ t.runState = .idle)) ∧
    (t.count ≠ 4096 → t.phase = .search ∧ t.tableValid = s.tableValid ∧
      (∀ idx, nextComb s.w s.idx = some idx → t.idx = idx ∧ t.w = s.w ∧ t.runState = .busy) ∧
      (nextComb s.w s.idx = none → s.w.toNat < s.cfg.wMax.val →
        t.w.toNat = s.w.toNat + 1 ∧ t.runState = .busy ∧
        ∀ k < 6, idxAt t.idx k = if k < s.w.toNat + 1 then k else 0) ∧
      (nextComb s.w s.idx = none → s.cfg.wMax.val ≤ s.w.toNat →
        t.w = s.w ∧ t.idx = s.idx ∧ t.runState = .fault ∧ t.err = .searchIncomplete ∧
        t.errInfo = faultRecord 0 t.count s.w))

/-- R196, R198: the SERIAL step and the sink: no answer, no step; `err` faults with OUT, ROW, BYTE and
OUT_COMMIT unchanged; `ok` gives OUT the byte and moves on or, on the last byte, commits and completes. -/
def Obligations.SerialStepSendsOneByte : Prop :=
  ∀ s : State, s.runState = .busy → s.phase = .serial →
    (s.answers = [] → sequencerStep s = .next s) ∧
    (∀ rest, s.answers = .err :: rest → sequencerStep s = .next { s with
      answers := rest, runState := .fault, err := .persistence,
      errInfo := faultRecord (BitVec.ofNat 14 (3 * s.row.toNat + s.byte.toNat)) s.count s.w }) ∧
    ∀ rest b out, s.answers = .ok :: rest →
      b = (leaderAt s s.row).extractLsb' (8 * s.byte.toNat) 8 →
      out = (if s.row = 0 ∧ s.byte = 0 then [b] else s.out ++ [b]) →
      (s.row = 4095 ∧ s.byte = 2 → sequencerStep s = .next { s with
        answers := rest, out := out, outCommit := true, phase := .none, runState := .idle }) ∧
      (s.row ≠ 4095 ∧ s.byte = 2 → sequencerStep s = .next { s with
        answers := rest, out := out, byte := 0, row := s.row + 1 }) ∧
      (s.byte ≠ 2 → sequencerStep s = .next { s with
        answers := rest, out := out, byte := s.byte + 1 })

/-- R236: `raise` writes STATE, ERR and ERRINFO and nothing else, and the record's fields stand at
their bits. -/
def Obligations.RaiseWritesTheFaultRecord : Prop :=
  ∀ (code : ErrCode) (aux : BitVec 14) (s : State),
    raise code aux s = { s with
      runState := .fault, err := code, errInfo := (raise code aux s).errInfo } ∧
    (raise code aux s).errInfo.extractLsb' 0 3 = s.w ∧
    (raise code aux s).errInfo.extractLsb' 3 13 = s.count ∧
    (raise code aux s).errInfo.extractLsb' 16 14 = aux ∧
    (raise code aux s).errInfo.extractLsb' 30 2 = 0

/-- 30_encoding.md section 6, 44_batch_and_nop.md: RUN does step by step what INIT, BUILD and SER do
one after the other, but for OP and CMDREJ: where INIT's or BUILD's phase ends, RUN is where the next
command's accept step leads. -/
def Obligations.RunDoesInitThenBuildThenSer : Prop :=
  (∀ s t : State, s.runState = .busy → s.phase = .init → s.op = .init → sequencerStep s = .next t →
    (t.runState = .fault → sequencerStep { s with op := .run } = .next { t with op := .run }) ∧
    (t.runState ≠ .fault → t.runState = .idle ∧ ∃ u, exec .build t = .next u ∧ u.op = .build ∧
      sequencerStep { s with op := .run } = .next { u with op := .run, cmdRej := s.cmdRej })) ∧
  (∀ s t : State, s.runState = .busy → s.phase = .search → s.op = .build →
    sequencerStep s = .next t →
    (t.runState ≠ .idle → sequencerStep { s with op := .run } = .next { t with op := .run }) ∧
    (t.runState = .idle → ∃ u, exec .ser t = .next u ∧ u.op = .ser ∧
      sequencerStep { s with op := .run } = .next { u with op := .run, cmdRej := s.cmdRej })) ∧
  ∀ s t : State, s.runState = .busy → s.phase = .serial → s.op = .ser → sequencerStep s = .next t →
    sequencerStep { s with op := .run } = .next { t with op := .run }

/-! ## The whole machine -/

/-- R240: FAULT is absorbing. The sequencer changes nothing, every word written to CMD is rejected, a
write elsewhere changes nothing, a read gives the host its value and changes nothing of the block, a
WAIT is over at once; no step but a reset leaves FAULT or clears ERR or ERRINFO, and a reset leads to
IDLE with no fault recorded. The turns and the record of reads are the model's own
(notes/assumptions/5.md, 7.md, 8.md). -/
def Obligations.FaultIsAbsorbing : Prop :=
  ∀ s : State, s.runState = .fault →
    sequencerStep s = .next s ∧
    (∀ v, hostWrite 0 v s = .next { s with cmdRej := true }) ∧
    (∀ ra v, ra ≠ 0 → hostWrite ra v s = .next s) ∧
    (∀ i, exec i s = .next { s with cmdRej := true }) ∧
    (∀ ra, hostReadTurn ra s = { s with reads := (ra, hostRead s ra) :: s.reads }) ∧
    (∀ rest, s.inputs = .wait :: rest → step s = .next { s with inputs := rest }) ∧
    (∀ t, step s = .next t → ¬ ResetTurn s →
      t.runState = .fault ∧ t.err = s.err ∧ t.errInfo = s.errInfo) ∧
    (ResetTurn s → ∃ t, step s = .next t ∧ t.runState = .idle ∧ t.err = .none) ∧
    (hardReset s).runState = .idle ∧ (hardReset s).err = .none

/-- R272: the reset state, from any state: every register the rule gives a value, the constants and
the sink's OUT kept, and what the host then reads. LEADER and FOUND are unspecified, so that nothing is
said of them. -/
def Obligations.ResetStateValues : Prop :=
  ∀ s t : State, t = hardReset s →
    t.cfg = s.cfg ∧ (∀ i < 12, rowAt t.hRows i = 0) ∧ t.eReg = 0 ∧
      t.sReg = 0 ∧ t.count = 0 ∧ t.cand = 0 ∧ t.runState = .idle ∧ t.hValid = false ∧
      t.tableValid = false ∧ t.outCommit = false ∧ t.cmdRej = false ∧ t.err = .none ∧
      t.op = .nop ∧ t.errInfo = 0 ∧ t.phase = .none ∧ t.w = 0 ∧ (∀ k < 6, idxAt t.idx k = 0) ∧
      t.row = 0 ∧ t.byte = 0 ∧ t.out = s.out ∧
      hostRead t 1 = 0 ∧ hostRead t 2 = 0 ∧ hostRead t 7 = 0 ∧ hostRead t 8 = 0 ∧
      ∀ i < 12, hostRead t (BitVec.ofNat 6 (0x20 + i)) = 0

/-- 70_reset_and_hazards.md section 1 and 93 U6: a reset turn leads to the reset state from any state,
BUSY and FAULT included; a byte offered and not yet answered at that moment is in OUT afterwards or
not, as the schedule says (notes/assumptions/9.md), and OUT is otherwise as before. -/
def Obligations.ResetTurnInAnyState : Prop :=
  ∀ (s : State) taken rest, s.inputs = .reset taken :: rest →
    ∃ t, step s = .next t ∧
      ((taken = false ∨ s.runState ≠ .busy ∨ s.phase ≠ .serial) →
        t = hardReset { s with inputs := rest }) ∧
      (taken = true → s.runState = .busy → s.phase = .serial →
        t = hardReset { s with
          inputs := rest
          out := if s.row = 0 ∧ s.byte = 0
            then [(leaderAt s s.row).extractLsb' (8 * s.byte.toNat) 8]
            else s.out ++ [(leaderAt s s.row).extractLsb' (8 * s.byte.toNat) 8] })

/-- 10_state.md sections 2 and 5: no step changes G or W_MAX; H changes only in a successful INIT step
or a reset, and once H_VALID is set not at all until reset, in states that meet the control invariant. -/
def Obligations.ConstantsAndHStay : Prop :=
  ∀ s t : State, step s = .next t → t.cfg = s.cfg ∧
    (t.hRows ≠ s.hRows → ResetTurn s ∨
      (SequencerTurn s ∧ s.phase = .init ∧ t.hRows = deriveH s.cfg.gRom ∧ t.hValid = true)) ∧
    (ControlInv s → s.hValid = true → ¬ ResetTurn s → t.hRows = s.hRows)

/-- 10_state.md section 2: E and S change only by the accept step of SYND or RDROW, by their phase's
step, or by reset. -/
def Obligations.WritersOfEAndS : Prop :=
  ∀ s t : State, step s = .next t → ¬ ResetTurn s →
    (t.eReg ≠ s.eReg →
      (∃ w e rest, s.inputs = .write 0 w :: rest ∧ decode w = .ok (.synd e) ∧ t.eReg = e) ∨
      (SequencerTurn s ∧ s.phase = .rdrow ∧ t.eReg = leaderAt s s.sReg)) ∧
    (t.sReg ≠ s.sReg →
      (∃ w a rest, s.inputs = .write 0 w :: rest ∧ decode w = .ok (.rdrow a) ∧ t.sReg = a) ∨
      (SequencerTurn s ∧ s.phase = .synd ∧ t.sReg = syndrome s.hRows s.eReg))

/-- 10_state.md section 4: what sets and clears H_VALID, TABLE_VALID, OUT_COMMIT and CMDREJ, reset
apart. -/
def Obligations.WritersOfFlags : Prop :=
  ∀ s t : State, step s = .next t → ¬ ResetTurn s →
    (s.hValid = true → t.hValid = true) ∧
    (s.hValid = false → t.hValid = true →
      SequencerTurn s ∧ s.phase = .init ∧ 12 ≤ rank12 s.cfg.gRom) ∧
    (s.tableValid = false → t.tableValid = true →
      SequencerTurn s ∧ s.phase = .search ∧ t.count = 4096) ∧
    (s.tableValid = true → t.tableValid = false →
      t.phase = .search ∧ t.count = 0 ∧ t.cand = 0 ∧ ∀ a, foundAt t a = false) ∧
    (s.outCommit = false → t.outCommit = true →
      SequencerTurn s ∧ s.phase = .serial ∧ s.row = 4095 ∧ s.byte = 2 ∧
        s.answers = .ok :: t.answers) ∧
    (s.outCommit = true → t.outCommit = false → t.phase = .serial ∧ t.row = 0 ∧ t.byte = 0) ∧
    (t.cmdRej ≠ s.cmdRej → ∃ w rest, s.inputs = .write 0 w :: rest)

/-- 10_state.md section 4: the transitions of STATE, reset apart: IDLE to BUSY only by an accepted
command word, BUSY to IDLE or FAULT only by the sequencer, FAULT stays, and nothing of the block but
CMDREJ changes in it. -/
def Obligations.TransitionsOfState : Prop :=
  ∀ s t : State, step s = .next t → ¬ ResetTurn s →
    (s.runState = .idle → t.runState = .idle ∨ (t.runState = .busy ∧
      ∃ w i rest, s.inputs = .write 0 w :: rest ∧ decode w = .ok i ∧ CommandReady i s ∧
        t.op = i.opcode)) ∧
    (s.runState = .busy → t.runState = .busy ∨
      (t.runState = .idle ∧ SequencerTurn s ∧ t.phase = .none) ∨
      (t.runState = .fault ∧ SequencerTurn s ∧ t.phase = s.phase ∧ t.op = s.op)) ∧
    (s.runState = .fault → t.runState = .fault ∧
      { t with cmdRej := s.cmdRej, inputs := s.inputs, reads := s.reads } = s)

/-- 10_state.md section 6: LEADER changes only in a SEARCH step, FOUND only there or, to all zeros,
when a search begins, and OUT only in a SERIAL step; reset apart. -/
def Obligations.WritersOfMemories : Prop :=
  ∀ s t : State, step s = .next t → ¬ ResetTurn s →
    (¬ (SequencerTurn s ∧ s.phase = .search) →
      t.leader = s.leader ∧ (∀ a, leaderAt t a = leaderAt s a) ∧
      ((∀ a, foundAt t a = foundAt s a) ∨ ((∀ a, foundAt t a = false) ∧ t.phase = .search))) ∧
    (¬ (SequencerTurn s ∧ s.phase = .serial) → t.out = s.out)

/-- The frame of every command's write (30_encoding.md section 5): what exec leaves unchanged. E is
written by SYND, S by RDROW, FOUND, COUNT, CAND, W, IDX and TABLE_VALID by BUILD, ROW, BYTE and
OUT_COMMIT by SER; every LEADER cell reads as before. -/
def Obligations.CommandFrame : Prop :=
  ∀ (i : Instr) (s t : State), exec i s = .next t →
    t.cfg = s.cfg ∧ t.hRows = s.hRows ∧ (∀ a, leaderAt t a = leaderAt s a) ∧
    t.hValid = s.hValid ∧ t.err = s.err ∧ t.errInfo = s.errInfo ∧ t.out = s.out ∧
    t.inputs = s.inputs ∧ t.answers = s.answers ∧ t.reads = s.reads ∧ t.resets = s.resets ∧
    ((∀ e, i ≠ .synd e) → t.eReg = s.eReg) ∧ ((∀ a, i ≠ .rdrow a) → t.sReg = s.sReg) ∧
    (i ≠ .build → t.found = s.found ∧ t.count = s.count ∧ t.cand = s.cand ∧ t.w = s.w ∧
      t.idx = s.idx ∧ t.tableValid = s.tableValid) ∧
    (i ≠ .ser → t.row = s.row ∧ t.byte = s.byte ∧ t.outCommit = s.outCommit)

/-- The frame of every sequencer step (the phase steps of 40 to 44): what each phase leaves unchanged. -/
def Obligations.PhaseStepFrame : Prop :=
  ∀ s t : State, s.runState = .busy → sequencerStep s = .next t →
    t.cfg = s.cfg ∧ t.cmdRej = s.cmdRej ∧ t.op = s.op ∧ t.inputs = s.inputs ∧
    t.reads = s.reads ∧ t.resets = s.resets ∧
    (s.phase ≠ .init → t.hRows = s.hRows ∧ t.hValid = s.hValid) ∧
    (s.phase ≠ .synd → t.sReg = s.sReg) ∧ (s.phase ≠ .rdrow → t.eReg = s.eReg) ∧
    (s.phase ≠ .search → ∀ a, leaderAt t a = leaderAt s a) ∧
    (s.phase ≠ .search → s.phase ≠ .init ∨ s.op ≠ .run →
      t.found = s.found ∧ t.count = s.count ∧ t.cand = s.cand ∧ t.w = s.w ∧ t.idx = s.idx ∧
      t.tableValid = s.tableValid) ∧
    (s.phase ≠ .serial → t.out = s.out ∧ t.answers = s.answers) ∧
    (s.phase ≠ .serial → s.phase ≠ .search ∨ s.op ≠ .run →
      t.row = s.row ∧ t.byte = s.byte ∧ t.outCommit = s.outCommit) ∧
    (t.runState ≠ .fault → t.err = s.err ∧ t.errInfo = s.errInfo)

/-- 60_exceptions.md section 1 and the model's one stop (notes/assumptions/10.md): no step is refused,
the only stop is a sequencer turn in BUSY with PHASE NONE, and in a state that meets the control
invariant every step has a next state. -/
def Obligations.OnlyStopIsNoPhase : Prop :=
  ∀ s : State, (∀ r, step s ≠ .refused r) ∧
    (step s = .fault .noPhase ↔ SequencerTurn s ∧ s.phase = .none) ∧
    (ControlInv s → ∃ t, step s = .next t)

/-! ## Invariants -/

/-- 10_state.md section 8: every step, resets included, keeps the control invariant. -/
def Obligations.StepKeepsControlInv : Prop :=
  ∀ s t : State, ControlInv s → step s = .next t → ControlInv t

/-- 10_state.md section 8: every step keeps the invariant of the search and its memories. -/
def Obligations.StepKeepsSearchInv : Prop :=
  ∀ s t : State, ControlInv s → SearchInv s → step s = .next t → SearchInv t

/-- 42_coset_leader_search.md section 4 and 10_state.md section 8: every step keeps the exact count of
candidates and its bound. -/
def Obligations.StepKeepsCandInv : Prop :=
  ∀ s t : State, ControlInv s → CandInv s → step s = .next t → CandInv t

/-- 42_coset_leader_search.md section 7: every step keeps minimality and the tie-break. -/
def Obligations.StepKeepsMinimalInv : Prop :=
  ∀ s t : State, ControlInv s → SearchInv s → MinimalInv s → step s = .next t → MinimalInv t

/-- 43_table_serializer.md section 3: every step keeps the invariant of the sink's content. -/
def Obligations.StepKeepsSinkInv : Prop :=
  ∀ s t : State, ControlInv s → SinkInv s → step s = .next t → SinkInv t

/-- 70_reset_and_hazards.md section 1: the state after power-on reset meets every invariant, whatever
the unspecified contents of LEADER and FOUND (no clause rests on them), whatever the configuration and
whatever the environment has chosen. -/
def Obligations.ResetMeetsInvariants : Prop :=
  ∀ (c : Config) (ins : List Input) (ans : List SinkAnswer) (f : BitVec 4096), ∀ s,
    s = { State.reset with cfg := c, inputs := ins, answers := ans, found := f } →
    ControlInv s ∧ SearchInv s ∧ CandInv s ∧ MinimalInv s ∧ SinkInv s

/-- 43_table_serializer.md section 3 (R202, which the spec marks as derived): when the SERIAL phase
completes, OUT is the whole artifact of the table as it stands, 12288 bytes, and OUT_COMMIT is 1; no
step of the phase changes a LEADER cell, and no command is accepted during it. -/
def Obligations.CommitMeansWholeArtifact : Prop :=
  ∀ s t : State, ControlInv s → SinkInv s → s.runState = .busy → s.phase = .serial →
    sequencerStep s = .next t →
    (∀ a, leaderAt t a = leaderAt s a) ∧ (∀ i, exec i s = .next { s with cmdRej := true }) ∧
    (t.runState = .idle → t.outCommit = true ∧ t.out = artifact t ∧ t.out.length = 12288)

/-- 42_coset_leader_search.md section 7: every recorded cell holds a pattern of its own syndrome, the
cells of different syndromes differ, and its weight is the least of all patterns of that syndrome. -/
def Obligations.RecordedLeadersAreCosetLeaders : Prop :=
  ∀ s : State, SearchInv s → MinimalInv s → SearchBegun s → ∀ a, foundAt s a = true →
    syndrome s.hRows (leaderAt s a) = a ∧ weight (leaderAt s a) ≤ s.w.toNat ∧
    (∀ e, syndrome s.hRows e = a → weight (leaderAt s a) ≤ weight e) ∧
    (∀ b, foundAt s b = true → b ≠ a → leaderAt s b ≠ leaderAt s a) ∧
    (a = 0 → leaderAt s a = 0)

/-! ## The mathematics of the units -/

/-- R140: bit i of the syndrome is the parity of row i of H and e, the parity being 1 when the number
of 1 bits is odd. -/
def Obligations.SyndromeIsParityOfRows : Prop :=
  ∀ (h : Matrix) (e : Pattern) (i : Nat) (hi : i < 12),
    (syndrome h e).getLsbD i = decide (weight (h[i] &&& e) % 2 = 1)

/-- R143, R144: the syndrome is linear, for every H, and the syndrome of the zero vector is 0. -/
def Obligations.SyndromeIsLinear : Prop :=
  (∀ (h : Matrix) (a b : Pattern), syndrome h (a ^^^ b) = syndrome h a ^^^ syndrome h b) ∧
    ∀ h : Matrix, syndrome h 0 = 0

/-- 40_generator_and_parity_check.md section 3: the two blocks of the derived H (R124), and that the
syndrome function of a derived H reaches every syndrome (R125, which the spec marks as derived). -/
def Obligations.DerivedRowsAreTransposeAndIdentity : Prop :=
  ∀ g : Matrix,
    (∀ i (hi : i < 12), (∀ j (hj : j < 12), (deriveH g)[i].getLsbD j = g[j].getLsbD (12 + i)) ∧
      ∀ k < 12, (deriveH g)[i].getLsbD (12 + k) = decide (k = i)) ∧
    ∀ a : Syndrome, ∃ e, syndrome (deriveH g) e = a

/-- 41_syndrome.md section 1: the syndrome with a derived H, written on P, bit by bit and on whole words. -/
def Obligations.SyndromeOfDerivedMatrix : Prop :=
  ∀ (g : Matrix) (e : Pattern),
    (∀ i < 12, (syndrome (deriveH g) e).getLsbD i =
      (e.getLsbD (12 + i) ^^ (List.range 12).foldl
        (fun acc j => acc ^^ ((rowAt g j).getLsbD (12 + i) && e.getLsbD j)) false)) ∧
    syndrome (deriveH g) e = e.extractLsb' 12 12 ^^^ (List.range 12).foldl
      (fun acc j => if e.getLsbD j then acc ^^^ (rowAt g j).extractLsb' 12 12 else acc) 0

/-- 41_syndrome.md section 2: the syndromes of the single positions, and every syndrome as the exclusive or of those of
its set positions. -/
def Obligations.SyndromeOfSinglePositions : Prop :=
  (∀ (g : Matrix) (j : Nat), j < 12 →
    syndrome (deriveH g) (1#24 <<< j) = (rowAt g j).extractLsb' 12 12) ∧
  (∀ (g : Matrix) (j : Nat), 12 ≤ j → j < 24 →
    syndrome (deriveH g) (1#24 <<< j) = 1#12 <<< (j - 12)) ∧
  ∀ (h : Matrix) (e : Pattern), syndrome h e =
    (positions e).foldl (fun acc j => acc ^^^ syndrome h (1#24 <<< j)) 0

/-- R126, R149: with G in standard form H·gᵗ = 0 for every row g of G, and the syndrome of every
codeword is 0. -/
def Obligations.CodewordsHaveZeroSyndrome : Prop :=
  ∀ g : Matrix, StandardForm g →
    (∀ i < 12, ∀ r < 12, parity (rowAt (deriveH g) i &&& rowAt g r) = false) ∧
    (∀ r < 12, syndrome (deriveH g) (rowAt g r) = 0) ∧
    ∀ m : BitVec 12, syndrome (deriveH g) (rowCombination g m) = 0

/-- R150: with G in standard form the kernel of the syndrome function is exactly the code, which has
4096 elements; without standard form a codeword can have a nonzero syndrome. -/
def Obligations.KernelIsTheCode : Prop :=
  (∀ g : Matrix, StandardForm g →
    (∀ e, syndrome (deriveH g) e = 0 ↔ ∃ m, e = rowCombination g m) ∧
    Set.ncard {e : Pattern | syndrome (deriveH g) e = 0} = 4096) ∧
  ∃ (g : Matrix) (m : BitVec 12), syndrome (deriveH g) (rowCombination g m) ≠ 0

/-- 40_generator_and_parity_check.md section 3: a G in standard form has rank 12, so that INIT cannot
fault. -/
def Obligations.StandardFormHasFullRank : Prop := ∀ g : Matrix, StandardForm g → rank12 g = 12

/-- 40_generator_and_parity_check.md section 3: `rank12(G)` is the dimension over GF(2) of the span of
the rows: the span has 2 to the rank elements. -/
def Obligations.RankIsDimensionOfSpan : Prop :=
  ∀ g : Matrix, rank12 g ≤ 12 ∧
    Set.ncard (Set.range (rowCombination g)) = 2 ^ rank12 g

/-- R163: the set positions of a pattern are the first W indexes, and the weight of a W-subset's
pattern is W. -/
def Obligations.PatternHasItsPositions : Prop :=
  (∀ (w : BitVec 3) idx (j : Nat), j < 24 →
    ((pattern w idx).getLsbD j = true ↔ ∃ k < w.toNat, idxAt idx k = j)) ∧
  ∀ (w : BitVec 3) idx, ValidComb w idx → weight (pattern w idx) = w.toNat

/-- 42_coset_leader_search.md section 4: `next_comb` gives the very next subset of the class in
lexicographic order, it gives none exactly at the class's last subset, and the first subset is the
least: the enumeration visits every subset of the class, in order. -/
def Obligations.EnumerationIsLexicographic : Prop :=
  (∀ (w : BitVec 3) idx idx', ValidComb w idx → nextComb w idx = some idx' →
    ValidComb w idx' ∧ CandidateBefore (pattern w idx) (pattern w idx') ∧
    ∀ e, weight e = w.toNat → CandidateBefore (pattern w idx) e →
      e = pattern w idx' ∨ CandidateBefore (pattern w idx') e) ∧
  (∀ (w : BitVec 3) idx, ValidComb w idx →
    (nextComb w idx = none ↔ ∀ e, weight e = w.toNat →
      e = pattern w idx ∨ CandidateBefore e (pattern w idx))) ∧
  ∀ w : BitVec 3, w.toNat ≤ 6 → ValidComb w (firstComb w) ∧ ∀ e, weight e = w.toNat →
    e = pattern w (firstComb w) ∨ CandidateBefore (pattern w (firstComb w)) e

/-- R61, R200: the artifact is 12288 bytes, byte `3*a + k` is byte k of row a, and coordinate position
j of row a is bit `j mod 8` of byte `3*a + j/8`. -/
def Obligations.ArtifactLayout : Prop :=
  ∀ s : State, (artifact s).length = 12288 ∧
    (∀ (a : Syndrome) (k : Nat), k < 3 →
      (artifact s)[3 * a.toNat + k]? = some ((leaderAt s a).extractLsb' (8 * k) 8)) ∧
    ∀ (a : Syndrome) (j : Nat), j < 24 →
      (((artifact s)[3 * a.toNat + j / 8]?).getD 0).getLsbD (j % 8) = (leaderAt s a).getLsbD j

/-- 40_generator_and_parity_check.md section 5, 41_syndrome.md section 4: the worked values for `G_DEF`
(R130, R151, which the spec marks as derived). The bits of `G_DEF` are the spec's own choice, presumed
as to the original software (notes/assumptions/1.md). -/
def Obligations.WorkedValuesOfDefaultGenerator : Prop :=
  deriveH Config.gDef = #v[0x001A3B, 0x002D1D, 0x004E8E, 0x008B47, 0x010DA3, 0x020ED1, 0x040F68,
    0x080BB4, 0x1009DA, 0x2008ED, 0x400C76, 0x8007FF] ∧
  (∀ i < 12, (rowAt (deriveH Config.gDef) i).extractLsb' 0 12 =
    (rowAt Config.gDef i).extractLsb' 12 12) ∧
  ∀ p ∈ [(0x000000#24, 0x000#12), (0x000001#24, 0xA3B#12), (0x000800#24, 0x7FF#12),
      (0x001000#24, 0x001#12), (0x800000#24, 0x800#12), (0x000003#24, 0x726#12),
      (0x020021#24, 0x4CA#12), (0xA3B001#24, 0x000#12), (0x726003#24, 0x000#12),
      (0xFFFFFF#24, 0x000#12), (0xABCDEF#24, 0x00D#12), (0x123456#24, 0xC0D#12),
      (0xB9F9B9#24, 0xC00#12)],
    syndrome (deriveH Config.gDef) p.1 = p.2
end

