-- ==== Sys2Proof/Laws/State.lean ====
section
/-! SUPPORT. What each update of the state does to each field: one lemma per field per update, true by
rfl, so that no proof unfolds a record update. -/

namespace Sys2Proof.Machine

/-! ### `reject` -/

@[simp] theorem reject_cfg (s : State) : (reject s).cfg = s.cfg := rfl
@[simp] theorem reject_hRows (s : State) : (reject s).hRows = s.hRows := rfl
@[simp] theorem reject_eReg (s : State) : (reject s).eReg = s.eReg := rfl
@[simp] theorem reject_sReg (s : State) : (reject s).sReg = s.sReg := rfl
@[simp] theorem reject_leader (s : State) : (reject s).leader = s.leader := rfl
@[simp] theorem reject_found (s : State) : (reject s).found = s.found := rfl
@[simp] theorem reject_count (s : State) : (reject s).count = s.count := rfl
@[simp] theorem reject_cand (s : State) : (reject s).cand = s.cand := rfl
@[simp] theorem reject_runState (s : State) : (reject s).runState = s.runState := rfl
@[simp] theorem reject_hValid (s : State) : (reject s).hValid = s.hValid := rfl
@[simp] theorem reject_tableValid (s : State) : (reject s).tableValid = s.tableValid := rfl
@[simp] theorem reject_outCommit (s : State) : (reject s).outCommit = s.outCommit := rfl
@[simp] theorem reject_cmdRej (s : State) : (reject s).cmdRej = true := rfl
@[simp] theorem reject_err (s : State) : (reject s).err = s.err := rfl
@[simp] theorem reject_op (s : State) : (reject s).op = s.op := rfl
@[simp] theorem reject_errInfo (s : State) : (reject s).errInfo = s.errInfo := rfl
@[simp] theorem reject_phase (s : State) : (reject s).phase = s.phase := rfl
@[simp] theorem reject_w (s : State) : (reject s).w = s.w := rfl
@[simp] theorem reject_idx (s : State) : (reject s).idx = s.idx := rfl
@[simp] theorem reject_row (s : State) : (reject s).row = s.row := rfl
@[simp] theorem reject_byte (s : State) : (reject s).byte = s.byte := rfl
@[simp] theorem reject_out (s : State) : (reject s).out = s.out := rfl
@[simp] theorem reject_inputs (s : State) : (reject s).inputs = s.inputs := rfl
@[simp] theorem reject_answers (s : State) : (reject s).answers = s.answers := rfl
@[simp] theorem reject_reads (s : State) : (reject s).reads = s.reads := rfl
@[simp] theorem reject_resets (s : State) : (reject s).resets = s.resets := rfl

/-! ### `acceptOp` -/

@[simp] theorem acceptOp_cfg (op : Opcode) (s : State) : (acceptOp op s).cfg = s.cfg := rfl
@[simp] theorem acceptOp_hRows (op : Opcode) (s : State) : (acceptOp op s).hRows = s.hRows := rfl
@[simp] theorem acceptOp_eReg (op : Opcode) (s : State) : (acceptOp op s).eReg = s.eReg := rfl
@[simp] theorem acceptOp_sReg (op : Opcode) (s : State) : (acceptOp op s).sReg = s.sReg := rfl
@[simp] theorem acceptOp_leader (op : Opcode) (s : State) : (acceptOp op s).leader = s.leader := rfl
@[simp] theorem acceptOp_found (op : Opcode) (s : State) : (acceptOp op s).found = s.found := rfl
@[simp] theorem acceptOp_count (op : Opcode) (s : State) : (acceptOp op s).count = s.count := rfl
@[simp] theorem acceptOp_cand (op : Opcode) (s : State) : (acceptOp op s).cand = s.cand := rfl
@[simp] theorem acceptOp_runState (op : Opcode) (s : State) : (acceptOp op s).runState = .busy := rfl
@[simp] theorem acceptOp_hValid (op : Opcode) (s : State) : (acceptOp op s).hValid = s.hValid := rfl
@[simp] theorem acceptOp_tableValid (op : Opcode) (s : State) : (acceptOp op s).tableValid = s.tableValid := rfl
@[simp] theorem acceptOp_outCommit (op : Opcode) (s : State) : (acceptOp op s).outCommit = s.outCommit := rfl
@[simp] theorem acceptOp_cmdRej (op : Opcode) (s : State) : (acceptOp op s).cmdRej = false := rfl
@[simp] theorem acceptOp_err (op : Opcode) (s : State) : (acceptOp op s).err = s.err := rfl
@[simp] theorem acceptOp_op (op : Opcode) (s : State) : (acceptOp op s).op = op := rfl
@[simp] theorem acceptOp_errInfo (op : Opcode) (s : State) : (acceptOp op s).errInfo = s.errInfo := rfl
@[simp] theorem acceptOp_phase (op : Opcode) (s : State) : (acceptOp op s).phase = s.phase := rfl
@[simp] theorem acceptOp_w (op : Opcode) (s : State) : (acceptOp op s).w = s.w := rfl
@[simp] theorem acceptOp_idx (op : Opcode) (s : State) : (acceptOp op s).idx = s.idx := rfl
@[simp] theorem acceptOp_row (op : Opcode) (s : State) : (acceptOp op s).row = s.row := rfl
@[simp] theorem acceptOp_byte (op : Opcode) (s : State) : (acceptOp op s).byte = s.byte := rfl
@[simp] theorem acceptOp_out (op : Opcode) (s : State) : (acceptOp op s).out = s.out := rfl
@[simp] theorem acceptOp_inputs (op : Opcode) (s : State) : (acceptOp op s).inputs = s.inputs := rfl
@[simp] theorem acceptOp_answers (op : Opcode) (s : State) : (acceptOp op s).answers = s.answers := rfl
@[simp] theorem acceptOp_reads (op : Opcode) (s : State) : (acceptOp op s).reads = s.reads := rfl
@[simp] theorem acceptOp_resets (op : Opcode) (s : State) : (acceptOp op s).resets = s.resets := rfl

/-! ### `searchBegin` -/

@[simp] theorem searchBegin_cfg (s : State) : (searchBegin s).cfg = s.cfg := rfl
@[simp] theorem searchBegin_hRows (s : State) : (searchBegin s).hRows = s.hRows := rfl
@[simp] theorem searchBegin_eReg (s : State) : (searchBegin s).eReg = s.eReg := rfl
@[simp] theorem searchBegin_sReg (s : State) : (searchBegin s).sReg = s.sReg := rfl
@[simp] theorem searchBegin_leader (s : State) : (searchBegin s).leader = s.leader := rfl
@[simp] theorem searchBegin_found (s : State) : (searchBegin s).found = 0 := rfl
@[simp] theorem searchBegin_count (s : State) : (searchBegin s).count = 0 := rfl
@[simp] theorem searchBegin_cand (s : State) : (searchBegin s).cand = 0 := rfl
@[simp] theorem searchBegin_runState (s : State) : (searchBegin s).runState = s.runState := rfl
@[simp] theorem searchBegin_hValid (s : State) : (searchBegin s).hValid = s.hValid := rfl
@[simp] theorem searchBegin_tableValid (s : State) : (searchBegin s).tableValid = false := rfl
@[simp] theorem searchBegin_outCommit (s : State) : (searchBegin s).outCommit = s.outCommit := rfl
@[simp] theorem searchBegin_cmdRej (s : State) : (searchBegin s).cmdRej = s.cmdRej := rfl
@[simp] theorem searchBegin_err (s : State) : (searchBegin s).err = s.err := rfl
@[simp] theorem searchBegin_op (s : State) : (searchBegin s).op = s.op := rfl
@[simp] theorem searchBegin_errInfo (s : State) : (searchBegin s).errInfo = s.errInfo := rfl
@[simp] theorem searchBegin_phase (s : State) : (searchBegin s).phase = .search := rfl
@[simp] theorem searchBegin_w (s : State) : (searchBegin s).w = 0 := rfl
@[simp] theorem searchBegin_idx (s : State) : (searchBegin s).idx = Vector.replicate 6 0#5 := rfl
@[simp] theorem searchBegin_row (s : State) : (searchBegin s).row = s.row := rfl
@[simp] theorem searchBegin_byte (s : State) : (searchBegin s).byte = s.byte := rfl
@[simp] theorem searchBegin_out (s : State) : (searchBegin s).out = s.out := rfl
@[simp] theorem searchBegin_inputs (s : State) : (searchBegin s).inputs = s.inputs := rfl
@[simp] theorem searchBegin_answers (s : State) : (searchBegin s).answers = s.answers := rfl
@[simp] theorem searchBegin_reads (s : State) : (searchBegin s).reads = s.reads := rfl
@[simp] theorem searchBegin_resets (s : State) : (searchBegin s).resets = s.resets := rfl

/-! ### `serialBegin` -/

@[simp] theorem serialBegin_cfg (s : State) : (serialBegin s).cfg = s.cfg := rfl
@[simp] theorem serialBegin_hRows (s : State) : (serialBegin s).hRows = s.hRows := rfl
@[simp] theorem serialBegin_eReg (s : State) : (serialBegin s).eReg = s.eReg := rfl
@[simp] theorem serialBegin_sReg (s : State) : (serialBegin s).sReg = s.sReg := rfl
@[simp] theorem serialBegin_leader (s : State) : (serialBegin s).leader = s.leader := rfl
@[simp] theorem serialBegin_found (s : State) : (serialBegin s).found = s.found := rfl
@[simp] theorem serialBegin_count (s : State) : (serialBegin s).count = s.count := rfl
@[simp] theorem serialBegin_cand (s : State) : (serialBegin s).cand = s.cand := rfl
@[simp] theorem serialBegin_runState (s : State) : (serialBegin s).runState = s.runState := rfl
@[simp] theorem serialBegin_hValid (s : State) : (serialBegin s).hValid = s.hValid := rfl
@[simp] theorem serialBegin_tableValid (s : State) : (serialBegin s).tableValid = s.tableValid := rfl
@[simp] theorem serialBegin_outCommit (s : State) : (serialBegin s).outCommit = false := rfl
@[simp] theorem serialBegin_cmdRej (s : State) : (serialBegin s).cmdRej = s.cmdRej := rfl
@[simp] theorem serialBegin_err (s : State) : (serialBegin s).err = s.err := rfl
@[simp] theorem serialBegin_op (s : State) : (serialBegin s).op = s.op := rfl
@[simp] theorem serialBegin_errInfo (s : State) : (serialBegin s).errInfo = s.errInfo := rfl
@[simp] theorem serialBegin_phase (s : State) : (serialBegin s).phase = .serial := rfl
@[simp] theorem serialBegin_w (s : State) : (serialBegin s).w = s.w := rfl
@[simp] theorem serialBegin_idx (s : State) : (serialBegin s).idx = s.idx := rfl
@[simp] theorem serialBegin_row (s : State) : (serialBegin s).row = 0 := rfl
@[simp] theorem serialBegin_byte (s : State) : (serialBegin s).byte = 0 := rfl
@[simp] theorem serialBegin_out (s : State) : (serialBegin s).out = s.out := rfl
@[simp] theorem serialBegin_inputs (s : State) : (serialBegin s).inputs = s.inputs := rfl
@[simp] theorem serialBegin_answers (s : State) : (serialBegin s).answers = s.answers := rfl
@[simp] theorem serialBegin_reads (s : State) : (serialBegin s).reads = s.reads := rfl
@[simp] theorem serialBegin_resets (s : State) : (serialBegin s).resets = s.resets := rfl

/-! ### `toIdle` -/

@[simp] theorem toIdle_cfg (s : State) : (toIdle s).cfg = s.cfg := rfl
@[simp] theorem toIdle_hRows (s : State) : (toIdle s).hRows = s.hRows := rfl
@[simp] theorem toIdle_eReg (s : State) : (toIdle s).eReg = s.eReg := rfl
@[simp] theorem toIdle_sReg (s : State) : (toIdle s).sReg = s.sReg := rfl
@[simp] theorem toIdle_leader (s : State) : (toIdle s).leader = s.leader := rfl
@[simp] theorem toIdle_found (s : State) : (toIdle s).found = s.found := rfl
@[simp] theorem toIdle_count (s : State) : (toIdle s).count = s.count := rfl
@[simp] theorem toIdle_cand (s : State) : (toIdle s).cand = s.cand := rfl
@[simp] theorem toIdle_runState (s : State) : (toIdle s).runState = .idle := rfl
@[simp] theorem toIdle_hValid (s : State) : (toIdle s).hValid = s.hValid := rfl
@[simp] theorem toIdle_tableValid (s : State) : (toIdle s).tableValid = s.tableValid := rfl
@[simp] theorem toIdle_outCommit (s : State) : (toIdle s).outCommit = s.outCommit := rfl
@[simp] theorem toIdle_cmdRej (s : State) : (toIdle s).cmdRej = s.cmdRej := rfl
@[simp] theorem toIdle_err (s : State) : (toIdle s).err = s.err := rfl
@[simp] theorem toIdle_op (s : State) : (toIdle s).op = s.op := rfl
@[simp] theorem toIdle_errInfo (s : State) : (toIdle s).errInfo = s.errInfo := rfl
@[simp] theorem toIdle_phase (s : State) : (toIdle s).phase = .none := rfl
@[simp] theorem toIdle_w (s : State) : (toIdle s).w = s.w := rfl
@[simp] theorem toIdle_idx (s : State) : (toIdle s).idx = s.idx := rfl
@[simp] theorem toIdle_row (s : State) : (toIdle s).row = s.row := rfl
@[simp] theorem toIdle_byte (s : State) : (toIdle s).byte = s.byte := rfl
@[simp] theorem toIdle_out (s : State) : (toIdle s).out = s.out := rfl
@[simp] theorem toIdle_inputs (s : State) : (toIdle s).inputs = s.inputs := rfl
@[simp] theorem toIdle_answers (s : State) : (toIdle s).answers = s.answers := rfl
@[simp] theorem toIdle_reads (s : State) : (toIdle s).reads = s.reads := rfl
@[simp] theorem toIdle_resets (s : State) : (toIdle s).resets = s.resets := rfl

/-! ### `raise` -/

@[simp] theorem raise_cfg (c : ErrCode) (x : BitVec 14) (s : State) : (raise c x s).cfg = s.cfg := rfl
@[simp] theorem raise_hRows (c : ErrCode) (x : BitVec 14) (s : State) : (raise c x s).hRows = s.hRows := rfl
@[simp] theorem raise_eReg (c : ErrCode) (x : BitVec 14) (s : State) : (raise c x s).eReg = s.eReg := rfl
@[simp] theorem raise_sReg (c : ErrCode) (x : BitVec 14) (s : State) : (raise c x s).sReg = s.sReg := rfl
@[simp] theorem raise_leader (c : ErrCode) (x : BitVec 14) (s : State) : (raise c x s).leader = s.leader := rfl
@[simp] theorem raise_found (c : ErrCode) (x : BitVec 14) (s : State) : (raise c x s).found = s.found := rfl
@[simp] theorem raise_count (c : ErrCode) (x : BitVec 14) (s : State) : (raise c x s).count = s.count := rfl
@[simp] theorem raise_cand (c : ErrCode) (x : BitVec 14) (s : State) : (raise c x s).cand = s.cand := rfl
@[simp] theorem raise_runState (c : ErrCode) (x : BitVec 14) (s : State) : (raise c x s).runState = .fault := rfl
@[simp] theorem raise_hValid (c : ErrCode) (x : BitVec 14) (s : State) : (raise c x s).hValid = s.hValid := rfl
@[simp] theorem raise_tableValid (c : ErrCode) (x : BitVec 14) (s : State) : (raise c x s).tableValid = s.tableValid := rfl
@[simp] theorem raise_outCommit (c : ErrCode) (x : BitVec 14) (s : State) : (raise c x s).outCommit = s.outCommit := rfl
@[simp] theorem raise_cmdRej (c : ErrCode) (x : BitVec 14) (s : State) : (raise c x s).cmdRej = s.cmdRej := rfl
@[simp] theorem raise_err (c : ErrCode) (x : BitVec 14) (s : State) : (raise c x s).err = c := rfl
@[simp] theorem raise_op (c : ErrCode) (x : BitVec 14) (s : State) : (raise c x s).op = s.op := rfl
@[simp] theorem raise_errInfo (c : ErrCode) (x : BitVec 14) (s : State) : (raise c x s).errInfo = faultRecord x s.count s.w := rfl
@[simp] theorem raise_phase (c : ErrCode) (x : BitVec 14) (s : State) : (raise c x s).phase = s.phase := rfl
@[simp] theorem raise_w (c : ErrCode) (x : BitVec 14) (s : State) : (raise c x s).w = s.w := rfl
@[simp] theorem raise_idx (c : ErrCode) (x : BitVec 14) (s : State) : (raise c x s).idx = s.idx := rfl
@[simp] theorem raise_row (c : ErrCode) (x : BitVec 14) (s : State) : (raise c x s).row = s.row := rfl
@[simp] theorem raise_byte (c : ErrCode) (x : BitVec 14) (s : State) : (raise c x s).byte = s.byte := rfl
@[simp] theorem raise_out (c : ErrCode) (x : BitVec 14) (s : State) : (raise c x s).out = s.out := rfl
@[simp] theorem raise_inputs (c : ErrCode) (x : BitVec 14) (s : State) : (raise c x s).inputs = s.inputs := rfl
@[simp] theorem raise_answers (c : ErrCode) (x : BitVec 14) (s : State) : (raise c x s).answers = s.answers := rfl
@[simp] theorem raise_reads (c : ErrCode) (x : BitVec 14) (s : State) : (raise c x s).reads = s.reads := rfl
@[simp] theorem raise_resets (c : ErrCode) (x : BitVec 14) (s : State) : (raise c x s).resets = s.resets := rfl

/-! ### `recordLeader` -/

@[simp] theorem recordLeader_cfg (a : Syndrome) (e : Pattern) (s : State) : (recordLeader a e s).cfg = s.cfg := rfl
@[simp] theorem recordLeader_hRows (a : Syndrome) (e : Pattern) (s : State) : (recordLeader a e s).hRows = s.hRows := rfl
@[simp] theorem recordLeader_eReg (a : Syndrome) (e : Pattern) (s : State) : (recordLeader a e s).eReg = s.eReg := rfl
@[simp] theorem recordLeader_sReg (a : Syndrome) (e : Pattern) (s : State) : (recordLeader a e s).sReg = s.sReg := rfl
@[simp] theorem recordLeader_leader (a : Syndrome) (e : Pattern) (s : State) : (recordLeader a e s).leader = s.leader.write a.toNat e := rfl
@[simp] theorem recordLeader_found (a : Syndrome) (e : Pattern) (s : State) : (recordLeader a e s).found = setFound s.found a := rfl
@[simp] theorem recordLeader_count (a : Syndrome) (e : Pattern) (s : State) : (recordLeader a e s).count = s.count + 1 := rfl
@[simp] theorem recordLeader_cand (a : Syndrome) (e : Pattern) (s : State) : (recordLeader a e s).cand = s.cand := rfl
@[simp] theorem recordLeader_runState (a : Syndrome) (e : Pattern) (s : State) : (recordLeader a e s).runState = s.runState := rfl
@[simp] theorem recordLeader_hValid (a : Syndrome) (e : Pattern) (s : State) : (recordLeader a e s).hValid = s.hValid := rfl
@[simp] theorem recordLeader_tableValid (a : Syndrome) (e : Pattern) (s : State) : (recordLeader a e s).tableValid = s.tableValid := rfl
@[simp] theorem recordLeader_outCommit (a : Syndrome) (e : Pattern) (s : State) : (recordLeader a e s).outCommit = s.outCommit := rfl
@[simp] theorem recordLeader_cmdRej (a : Syndrome) (e : Pattern) (s : State) : (recordLeader a e s).cmdRej = s.cmdRej := rfl
@[simp] theorem recordLeader_err (a : Syndrome) (e : Pattern) (s : State) : (recordLeader a e s).err = s.err := rfl
@[simp] theorem recordLeader_op (a : Syndrome) (e : Pattern) (s : State) : (recordLeader a e s).op = s.op := rfl
@[simp] theorem recordLeader_errInfo (a : Syndrome) (e : Pattern) (s : State) : (recordLeader a e s).errInfo = s.errInfo := rfl
@[simp] theorem recordLeader_phase (a : Syndrome) (e : Pattern) (s : State) : (recordLeader a e s).phase = s.phase := rfl
@[simp] theorem recordLeader_w (a : Syndrome) (e : Pattern) (s : State) : (recordLeader a e s).w = s.w := rfl
@[simp] theorem recordLeader_idx (a : Syndrome) (e : Pattern) (s : State) : (recordLeader a e s).idx = s.idx := rfl
@[simp] theorem recordLeader_row (a : Syndrome) (e : Pattern) (s : State) : (recordLeader a e s).row = s.row := rfl
@[simp] theorem recordLeader_byte (a : Syndrome) (e : Pattern) (s : State) : (recordLeader a e s).byte = s.byte := rfl
@[simp] theorem recordLeader_out (a : Syndrome) (e : Pattern) (s : State) : (recordLeader a e s).out = s.out := rfl
@[simp] theorem recordLeader_inputs (a : Syndrome) (e : Pattern) (s : State) : (recordLeader a e s).inputs = s.inputs := rfl
@[simp] theorem recordLeader_answers (a : Syndrome) (e : Pattern) (s : State) : (recordLeader a e s).answers = s.answers := rfl
@[simp] theorem recordLeader_reads (a : Syndrome) (e : Pattern) (s : State) : (recordLeader a e s).reads = s.reads := rfl
@[simp] theorem recordLeader_resets (a : Syndrome) (e : Pattern) (s : State) : (recordLeader a e s).resets = s.resets := rfl

/-! ### `hostReadTurn` -/

@[simp] theorem hostReadTurn_cfg (ra : BitVec 6) (s : State) : (hostReadTurn ra s).cfg = s.cfg := rfl
@[simp] theorem hostReadTurn_hRows (ra : BitVec 6) (s : State) : (hostReadTurn ra s).hRows = s.hRows := rfl
@[simp] theorem hostReadTurn_eReg (ra : BitVec 6) (s : State) : (hostReadTurn ra s).eReg = s.eReg := rfl
@[simp] theorem hostReadTurn_sReg (ra : BitVec 6) (s : State) : (hostReadTurn ra s).sReg = s.sReg := rfl
@[simp] theorem hostReadTurn_leader (ra : BitVec 6) (s : State) : (hostReadTurn ra s).leader = s.leader := rfl
@[simp] theorem hostReadTurn_found (ra : BitVec 6) (s : State) : (hostReadTurn ra s).found = s.found := rfl
@[simp] theorem hostReadTurn_count (ra : BitVec 6) (s : State) : (hostReadTurn ra s).count = s.count := rfl
@[simp] theorem hostReadTurn_cand (ra : BitVec 6) (s : State) : (hostReadTurn ra s).cand = s.cand := rfl
@[simp] theorem hostReadTurn_runState (ra : BitVec 6) (s : State) : (hostReadTurn ra s).runState = s.runState := rfl
@[simp] theorem hostReadTurn_hValid (ra : BitVec 6) (s : State) : (hostReadTurn ra s).hValid = s.hValid := rfl
@[simp] theorem hostReadTurn_tableValid (ra : BitVec 6) (s : State) : (hostReadTurn ra s).tableValid = s.tableValid := rfl
@[simp] theorem hostReadTurn_outCommit (ra : BitVec 6) (s : State) : (hostReadTurn ra s).outCommit = s.outCommit := rfl
@[simp] theorem hostReadTurn_cmdRej (ra : BitVec 6) (s : State) : (hostReadTurn ra s).cmdRej = s.cmdRej := rfl
@[simp] theorem hostReadTurn_err (ra : BitVec 6) (s : State) : (hostReadTurn ra s).err = s.err := rfl
@[simp] theorem hostReadTurn_op (ra : BitVec 6) (s : State) : (hostReadTurn ra s).op = s.op := rfl
@[simp] theorem hostReadTurn_errInfo (ra : BitVec 6) (s : State) : (hostReadTurn ra s).errInfo = s.errInfo := rfl
@[simp] theorem hostReadTurn_phase (ra : BitVec 6) (s : State) : (hostReadTurn ra s).phase = s.phase := rfl
@[simp] theorem hostReadTurn_w (ra : BitVec 6) (s : State) : (hostReadTurn ra s).w = s.w := rfl
@[simp] theorem hostReadTurn_idx (ra : BitVec 6) (s : State) : (hostReadTurn ra s).idx = s.idx := rfl
@[simp] theorem hostReadTurn_row (ra : BitVec 6) (s : State) : (hostReadTurn ra s).row = s.row := rfl
@[simp] theorem hostReadTurn_byte (ra : BitVec 6) (s : State) : (hostReadTurn ra s).byte = s.byte := rfl
@[simp] theorem hostReadTurn_out (ra : BitVec 6) (s : State) : (hostReadTurn ra s).out = s.out := rfl
@[simp] theorem hostReadTurn_inputs (ra : BitVec 6) (s : State) : (hostReadTurn ra s).inputs = s.inputs := rfl
@[simp] theorem hostReadTurn_answers (ra : BitVec 6) (s : State) : (hostReadTurn ra s).answers = s.answers := rfl
@[simp] theorem hostReadTurn_reads (ra : BitVec 6) (s : State) : (hostReadTurn ra s).reads = (ra, hostRead s ra) :: s.reads := rfl
@[simp] theorem hostReadTurn_resets (ra : BitVec 6) (s : State) : (hostReadTurn ra s).resets = s.resets := rfl

/-! ### `placeCommand` -/

@[simp] theorem placeCommand_cfg (v : Word) (s : State) : (placeCommand v s).cfg = s.cfg := rfl
@[simp] theorem placeCommand_hRows (v : Word) (s : State) : (placeCommand v s).hRows = s.hRows := rfl
@[simp] theorem placeCommand_eReg (v : Word) (s : State) : (placeCommand v s).eReg = s.eReg := rfl
@[simp] theorem placeCommand_sReg (v : Word) (s : State) : (placeCommand v s).sReg = s.sReg := rfl
@[simp] theorem placeCommand_leader (v : Word) (s : State) : (placeCommand v s).leader = s.leader := rfl
@[simp] theorem placeCommand_found (v : Word) (s : State) : (placeCommand v s).found = s.found := rfl
@[simp] theorem placeCommand_count (v : Word) (s : State) : (placeCommand v s).count = s.count := rfl
@[simp] theorem placeCommand_cand (v : Word) (s : State) : (placeCommand v s).cand = s.cand := rfl
@[simp] theorem placeCommand_runState (v : Word) (s : State) : (placeCommand v s).runState = s.runState := rfl
@[simp] theorem placeCommand_hValid (v : Word) (s : State) : (placeCommand v s).hValid = s.hValid := rfl
@[simp] theorem placeCommand_tableValid (v : Word) (s : State) : (placeCommand v s).tableValid = s.tableValid := rfl
@[simp] theorem placeCommand_outCommit (v : Word) (s : State) : (placeCommand v s).outCommit = s.outCommit := rfl
@[simp] theorem placeCommand_cmdRej (v : Word) (s : State) : (placeCommand v s).cmdRej = s.cmdRej := rfl
@[simp] theorem placeCommand_err (v : Word) (s : State) : (placeCommand v s).err = s.err := rfl
@[simp] theorem placeCommand_op (v : Word) (s : State) : (placeCommand v s).op = s.op := rfl
@[simp] theorem placeCommand_errInfo (v : Word) (s : State) : (placeCommand v s).errInfo = s.errInfo := rfl
@[simp] theorem placeCommand_phase (v : Word) (s : State) : (placeCommand v s).phase = s.phase := rfl
@[simp] theorem placeCommand_w (v : Word) (s : State) : (placeCommand v s).w = s.w := rfl
@[simp] theorem placeCommand_idx (v : Word) (s : State) : (placeCommand v s).idx = s.idx := rfl
@[simp] theorem placeCommand_row (v : Word) (s : State) : (placeCommand v s).row = s.row := rfl
@[simp] theorem placeCommand_byte (v : Word) (s : State) : (placeCommand v s).byte = s.byte := rfl
@[simp] theorem placeCommand_out (v : Word) (s : State) : (placeCommand v s).out = s.out := rfl
@[simp] theorem placeCommand_inputs (v : Word) (s : State) : (placeCommand v s).inputs = .write 0 v :: s.inputs := rfl
@[simp] theorem placeCommand_answers (v : Word) (s : State) : (placeCommand v s).answers = s.answers := rfl
@[simp] theorem placeCommand_reads (v : Word) (s : State) : (placeCommand v s).reads = s.reads := rfl
@[simp] theorem placeCommand_resets (v : Word) (s : State) : (placeCommand v s).resets = s.resets := rfl

/-! ### `hardReset` -/

@[simp] theorem hardReset_cfg (s : State) : (hardReset s).cfg = s.cfg := rfl
@[simp] theorem hardReset_hRows (s : State) : (hardReset s).hRows = Vector.replicate 12 0#24 := rfl
@[simp] theorem hardReset_eReg (s : State) : (hardReset s).eReg = 0 := rfl
@[simp] theorem hardReset_sReg (s : State) : (hardReset s).sReg = 0 := rfl
@[simp] theorem hardReset_leader (s : State) : (hardReset s).leader = [] := rfl
@[simp] theorem hardReset_found (s : State) : (hardReset s).found = Config.powerOnFound (s.resets + 1) := rfl
@[simp] theorem hardReset_count (s : State) : (hardReset s).count = 0 := rfl
@[simp] theorem hardReset_cand (s : State) : (hardReset s).cand = 0 := rfl
@[simp] theorem hardReset_runState (s : State) : (hardReset s).runState = .idle := rfl
@[simp] theorem hardReset_hValid (s : State) : (hardReset s).hValid = false := rfl
@[simp] theorem hardReset_tableValid (s : State) : (hardReset s).tableValid = false := rfl
@[simp] theorem hardReset_outCommit (s : State) : (hardReset s).outCommit = false := rfl
@[simp] theorem hardReset_cmdRej (s : State) : (hardReset s).cmdRej = false := rfl
@[simp] theorem hardReset_err (s : State) : (hardReset s).err = .none := rfl
@[simp] theorem hardReset_op (s : State) : (hardReset s).op = .nop := rfl
@[simp] theorem hardReset_errInfo (s : State) : (hardReset s).errInfo = 0 := rfl
@[simp] theorem hardReset_phase (s : State) : (hardReset s).phase = .none := rfl
@[simp] theorem hardReset_w (s : State) : (hardReset s).w = 0 := rfl
@[simp] theorem hardReset_idx (s : State) : (hardReset s).idx = Vector.replicate 6 0#5 := rfl
@[simp] theorem hardReset_row (s : State) : (hardReset s).row = 0 := rfl
@[simp] theorem hardReset_byte (s : State) : (hardReset s).byte = 0 := rfl
@[simp] theorem hardReset_out (s : State) : (hardReset s).out = s.out := rfl
@[simp] theorem hardReset_inputs (s : State) : (hardReset s).inputs = s.inputs := rfl
@[simp] theorem hardReset_answers (s : State) : (hardReset s).answers = s.answers := rfl
@[simp] theorem hardReset_reads (s : State) : (hardReset s).reads = s.reads := rfl
@[simp] theorem hardReset_resets (s : State) : (hardReset s).resets = s.resets + 1 := rfl

end Sys2Proof.Machine
end

