-- ==== Sys2Proof/Laws/Machine.lean ====
section
/-! SUPPORT. What each shared operation and each step can do, said once: a proof cites these instead of
unfolding the step function. -/

namespace Sys2Proof.Machine

/-- A command write in IDLE whose precondition holds is accepted. -/
theorem issue_accepted {op : Opcode} {further : State → State} {s : State}
    (hi : s.runState = .idle) (hp : precond op s = true) :
    issue op further s = .next (further (acceptOp op s)) := by
  simp [issue, hi, hp]

/-- A command write outside IDLE is rejected. -/
theorem issue_not_idle {op : Opcode} {further : State → State} {s : State}
    (hi : s.runState ≠ .idle) : issue op further s = .next (reject s) := by
  simp [issue, hi]

/-- A command write whose precondition fails is rejected. -/
theorem issue_not_ready {op : Opcode} {further : State → State} {s : State}
    (hp : precond op s = false) : issue op further s = .next (reject s) := by
  simp [issue, hp]

/-- Everything a command write can do: accept or reject. -/
theorem issue_cases {op : Opcode} {further : State → State} {s t : State}
    (h : issue op further s = .next t) :
    (s.runState = .idle ∧ precond op s = true ∧ t = further (acceptOp op s)) ∨
      ((s.runState ≠ .idle ∨ precond op s = false) ∧ t = reject s) := by
  unfold issue at h
  split at h
  · rename_i hc
    injection h with h
    exact .inl ⟨hc.1, hc.2, h.symm⟩
  · rename_i hc
    injection h with h
    refine .inr ⟨?_, h.symm⟩
    by_cases hi : s.runState = .idle
    · right
      cases hp : precond op s
      · rfl
      · exact absurd ⟨hi, hp⟩ hc
    · exact .inl hi

/-- A command write always has a next state. -/
theorem issue_next (op : Opcode) (further : State → State) (s : State) :
    ∃ t, issue op further s = .next t := by
  unfold issue
  split <;> exact ⟨_, rfl⟩

/-- The further effect of a command's accept step (30_encoding.md R98), as exec applies it. -/
def furtherEffect : Instr → State → State
  | .nop, t => { t with phase := .nop }
  | .init, t => { t with phase := .init }
  | .synd e, t => { t with eReg := e, phase := .synd }
  | .build, t => searchBegin t
  | .rdrow a, t => { t with sReg := a, phase := .rdrow }
  | .ser, t => serialBegin t
  | .run, t => { t with phase := .init }

/-- Every command is one shared operation with its own further effect. -/
theorem exec_eq_issue (i : Instr) (s : State) : exec i s = issue i.opcode (furtherEffect i) s := by
  cases i <;> rfl

/-- Every command's write has a next state, in every state. -/
theorem exec_next (i : Instr) (s : State) : ∃ t, exec i s = .next t :=
  exec_eq_issue i s ▸ issue_next i.opcode (furtherEffect i) s

/-- Everything a command's write can do. -/
theorem exec_cases {i : Instr} {s t : State} (h : exec i s = .next t) :
    (s.runState = .idle ∧ precond i.opcode s = true ∧ t = furtherEffect i (acceptOp i.opcode s)) ∨
      ((s.runState ≠ .idle ∨ precond i.opcode s = false) ∧ t = reject s) :=
  issue_cases (exec_eq_issue i s ▸ h)

/-- Everything `complete()` can do. -/
theorem complete_cases (s : State) :
    (s.op = .run ∧ s.phase = .init ∧ complete s = searchBegin s) ∨
      (s.op = .run ∧ s.phase = .search ∧ complete s = serialBegin s) ∨
      ((s.op ≠ .run ∨ (s.phase ≠ .init ∧ s.phase ≠ .search)) ∧ complete s = toIdle s) := by
  unfold complete
  split
  · rename_i h
    exact .inl ⟨h.1, h.2, rfl⟩
  · split
    · rename_i h
      exact .inr (.inl ⟨h.1, h.2, rfl⟩)
    · rename_i h1 h2
      refine .inr (.inr ⟨?_, rfl⟩)
      by_cases ho : s.op = .run
      · exact .inr ⟨fun hp => h1 ⟨ho, hp⟩, fun hp => h2 ⟨ho, hp⟩⟩
      · exact .inl ho

/-- Everything the second half of a SEARCH step can do. -/
theorem advance_cases (s : State) :
    (s.count = 4096 ∧ advance s = complete { s with tableValid := true }) ∨
      (s.count ≠ 4096 ∧ ∃ idx, nextComb s.w s.idx = some idx ∧ advance s = { s with idx := idx }) ∨
      (s.count ≠ 4096 ∧ nextComb s.w s.idx = none ∧ s.w.toNat < s.cfg.wMax.val ∧
        advance s = { s with w := s.w + 1, idx := firstComb (s.w + 1) }) ∨
      (s.count ≠ 4096 ∧ nextComb s.w s.idx = none ∧ s.cfg.wMax.val ≤ s.w.toNat ∧
        advance s = raise .searchIncomplete 0 s) := by
  unfold advance
  split
  · rename_i h
    exact .inl ⟨h, rfl⟩
  · rename_i h
    split
    · rename_i idx hn
      exact .inr (.inl ⟨h, idx, hn, rfl⟩)
    · rename_i hn
      split
      · rename_i hw
        exact .inr (.inr (.inl ⟨h, hn, hw, rfl⟩))
      · rename_i hw
        exact .inr (.inr (.inr ⟨h, hn, Nat.le_of_not_lt hw, rfl⟩))

/-- Everything the first half of a SEARCH step can do. -/
theorem examine_cases (s : State) :
    (foundAt s (syndrome s.hRows (pattern s.w s.idx)) = true ∧
      examine s = { s with cand := s.cand + 1 }) ∨
    (foundAt s (syndrome s.hRows (pattern s.w s.idx)) = false ∧
      examine s = recordLeader (syndrome s.hRows (pattern s.w s.idx)) (pattern s.w s.idx)
        { s with cand := s.cand + 1 }) := by
  cases hf : foundAt s (syndrome s.hRows (pattern s.w s.idx)) with
  | true => exact .inl ⟨rfl, by
      simp only [examine]; rw [if_pos (show foundAt _ _ = true from hf)]⟩
  | false => exact .inr ⟨rfl, by
      simp only [examine]; rw [if_neg (show ¬ foundAt _ _ = true by
        simpa [foundAt] using hf)]⟩

/-- Everything the sequencer's turn can do. -/
theorem sequencerStep_cases {s t : State} (h : sequencerStep s = .next t) :
    (s.runState ≠ .busy ∧ t = s) ∨
      (s.runState = .busy ∧
        ((s.phase = .init ∧ t = initStep s) ∨ (s.phase = .synd ∧ t = syndStep s) ∨
          (s.phase = .search ∧ t = searchStep s) ∨ (s.phase = .rdrow ∧ t = rdrowStep s) ∨
          (s.phase = .serial ∧ t = serialStep s) ∨ (s.phase = .nop ∧ t = nopStep s))) := by
  unfold sequencerStep at h
  cases hr : s.runState <;> cases hp : s.phase <;> simp only [hr, hp] at h <;> cases h <;> simp

/-- Everything one step can do, by the turn it takes. -/
theorem step_cases {s t : State} (h : step s = .next t) :
    (s.inputs = [] ∧ sequencerStep s = .next t) ∨
      (∃ ra v rest, s.inputs = .write ra v :: rest ∧
        hostWrite ra v { s with inputs := rest } = .next t) ∨
      (∃ ra rest, s.inputs = .read ra :: rest ∧ t = hostReadTurn ra { s with inputs := rest }) ∨
      (∃ rest, s.inputs = .run :: rest ∧ sequencerStep { s with inputs := rest } = .next t) ∨
      (∃ rest, s.inputs = .wait :: rest ∧ s.runState = .busy ∧ sequencerStep s = .next t) ∨
      (∃ rest, s.inputs = .wait :: rest ∧ s.runState ≠ .busy ∧ t = { s with inputs := rest }) ∨
      (∃ taken rest, s.inputs = .reset taken :: rest ∧
        t = platformReset taken { s with inputs := rest }) := by
  unfold step turn at h
  split at h
  · rename_i hi
    exact .inl ⟨hi, h⟩
  · rename_i ra v rest hi
    exact .inr (.inl ⟨ra, v, rest, hi, h⟩)
  · rename_i ra rest hi
    injection h with h
    exact .inr (.inr (.inl ⟨ra, rest, hi, h.symm⟩))
  · rename_i rest hi
    exact .inr (.inr (.inr (.inl ⟨rest, hi, h⟩)))
  · rename_i rest hi
    split at h
    · rename_i hb
      exact .inr (.inr (.inr (.inr (.inl ⟨rest, hi, hb, h⟩))))
    · rename_i hb
      injection h with h
      exact .inr (.inr (.inr (.inr (.inr (.inl ⟨rest, hi, hb, h.symm⟩)))))
  · rename_i taken rest hi
    injection h with h
    exact .inr (.inr (.inr (.inr (.inr (.inr ⟨taken, rest, hi, h.symm⟩)))))

/-- Everything a host write can do. -/
theorem hostWrite_cases {ra : BitVec 6} {v : Word} {s t : State} (h : hostWrite ra v s = .next t) :
    (ra ≠ 0 ∧ t = s) ∨ (ra = 0 ∧ ∃ r, decode v = .error r ∧ t = reject s) ∨
      (ra = 0 ∧ ∃ i, decode v = .ok i ∧ exec i s = .next t) := by
  unfold hostWrite at h
  split at h
  · rename_i hra
    split at h
    · rename_i i hd
      exact .inr (.inr ⟨hra, i, hd, h⟩)
    · rename_i r hd
      injection h with h
      exact .inr (.inl ⟨hra, r, hd, h.symm⟩)
  · rename_i hra
    injection h with h
    exact .inl ⟨hra, h.symm⟩

/-- A reset leaves the reset state, with OUT the one before it but for a pending byte. -/
theorem platformReset_eq (taken : Bool) (s : State) :
    ∃ out, platformReset taken s = hardReset { s with out := out } ∧
      (out = s.out ∨ (taken = true ∧ s.runState = .busy ∧ s.phase = .serial ∧
        out = sinkAccept (sinkOffer s) s.out)) := by
  unfold platformReset
  split
  · rename_i h
    exact ⟨_, rfl, .inr ⟨h.1, h.2.1, h.2.2, rfl⟩⟩
  · exact ⟨s.out, rfl, .inl rfl⟩

/-- The placed command is exactly what the next step runs. -/
theorem step_withFetchWord {s : State} {nbits w : Nat} {i : Instr}
    (h : decodeTableWord nbits w = some i) : step (s.withFetchWord nbits w) = exec i s := by
  unfold decodeTableWord at h
  unfold step turn State.withFetchWord placeCommand
  simp only [hostWrite, if_true]
  cases hd : decode (tableWord nbits w) with
  | ok j =>
    rw [hd] at h
    simp only [Except.toOption, Option.some.injEq] at h
    subst h
    rfl
  | error r =>
    rw [hd] at h
    simp [Except.toOption] at h

end Sys2Proof.Machine
end

