-- ==== Sys2Proof/Laws/Memory.lean ====
section
/-! SUPPORT. The laws of the LEADER memory and the FOUND bitmap: a read after a write, and the
canonical form, which every operation keeps. -/

namespace Sys2Proof.Machine

/-- A write is read back at its address. -/
theorem Memory.read_write_same (m : Memory) (a : Nat) (v : Pattern) :
    (m.write a v).read a = some v := by
  induction m with
  | nil => simp [Memory.write, Memory.read]
  | cons c rest ih =>
    obtain ⟨b, u⟩ := c
    simp only [Memory.write]
    split
    · simp [Memory.read]
    · split
      · simp [Memory.read]
      · have hne : ¬ b = a := by omega
        simp [Memory.read, hne, ih]

/-- A write leaves every other address alone. -/
theorem Memory.read_write_other (m : Memory) (a b : Nat) (v : Pattern) (h : b ≠ a) :
    (m.write a v).read b = m.read b := by
  induction m with
  | nil => simp [Memory.write, Memory.read, Ne.symm h]
  | cons c rest ih =>
    obtain ⟨d, u⟩ := c
    simp only [Memory.write]
    split
    · simp [Memory.read, Ne.symm h]
    · split
      · rename_i _ hd
        subst hd
        simp [Memory.read, Ne.symm h]
      · simp [Memory.read, ih]

/-- The listed addresses after a write: those before, and the written one. -/
theorem Memory.mem_write (m : Memory) (a : Nat) (v : Pattern) (c : Nat × Pattern)
    (h : c ∈ m.write a v) : c ∈ m ∨ c = (a, v) := by
  induction m with
  | nil => simpa [Memory.write] using h
  | cons d rest ih =>
    obtain ⟨b, u⟩ := d
    simp only [Memory.write] at h
    split at h
    · simp only [List.mem_cons] at h ⊢
      tauto
    · split at h
      · simp only [List.mem_cons] at h ⊢
        tauto
      · simp only [List.mem_cons] at h ⊢
        rcases h with h | h
        · tauto
        · rcases ih h with h | h <;> tauto

/-- A write at a cell's address keeps the canonical form. -/
theorem Memory.wf_write (m : Memory) (a : Nat) (v : Pattern) (hm : Memory.wf m) (ha : a < 4096) :
    Memory.wf (m.write a v) := by
  refine ⟨?_, fun c hc => ?_⟩
  · have hs := hm.1
    clear hm
    induction m with
    | nil => simp [Memory.write]
    | cons d rest ih =>
      obtain ⟨b, u⟩ := d
      rw [List.pairwise_cons] at hs
      obtain ⟨hb, hr⟩ := hs
      simp only [Memory.write]
      split
      · rename_i hlt
        simp only [List.pairwise_cons, List.mem_cons]
        refine ⟨fun c hc => ?_, hb, hr⟩
        rcases hc with rfl | hc
        · exact hlt
        · exact Nat.lt_trans hlt (hb c hc)
      · split
        · rename_i _ heq
          subst heq
          exact List.pairwise_cons.2 ⟨hb, hr⟩
        · refine List.pairwise_cons.2 ⟨fun c hc => ?_, ih hr⟩
          rcases Memory.mem_write rest a v c hc with hc | rfl
          · exact hb c hc
          · show b < a
            omega
  · rcases Memory.mem_write m a v c hc with hc | rfl
    · exact hm.2 c hc
    · exact ha

/-- The memory after reset is canonical. -/
theorem Memory.wf_nil : Memory.wf [] := ⟨List.Pairwise.nil, fun _ h => nomatch h⟩

/-- A bit that was set reads 1, and no other bit of FOUND changes. -/
theorem getLsbD_setFound (f : BitVec 4096) (a : Syndrome) (n : Nat) (hn : n < 4096) :
    (setFound f a).getLsbD n = (f.getLsbD n || decide (n = a.toNat)) := by
  unfold setFound
  rw [BitVec.getLsbD_or, BitVec.getLsbD_shiftLeft]
  congr 1
  by_cases h : n = a.toNat
  · subst h
    simp [hn]
  · by_cases hlt : n < a.toNat
    · simp [hlt, h]
    · have hpos : n - a.toNat ≠ 0 := by omega
      simp [h, hpos]

/-- After a recording the recorded FOUND bit is 1 and every other one is as before. -/
theorem foundAt_recordLeader (s : State) (a b : Syndrome) (e : Pattern) :
    foundAt (recordLeader a e s) b = (foundAt s b || decide (b = a)) := by
  have hb : b.toNat < 4096 := b.isLt
  show (setFound s.found a).getLsbD b.toNat = _
  rw [getLsbD_setFound _ _ _ hb]
  simp [foundAt, BitVec.toNat_inj]

/-- After a recording the recorded LEADER cell holds the pattern. -/
theorem leaderAt_recordLeader_same (s : State) (a : Syndrome) (e : Pattern) :
    leaderAt (recordLeader a e s) a = e := by
  simp [leaderAt, recordLeader, Memory.read_write_same]

/-- A recording leaves every other LEADER cell alone. -/
theorem leaderAt_recordLeader_other (s : State) (a b : Syndrome) (e : Pattern) (h : b ≠ a) :
    leaderAt (recordLeader a e s) b = leaderAt s b := by
  have hne : b.toNat ≠ a.toNat := fun hc => h (BitVec.eq_of_toNat_eq hc)
  simp [leaderAt, recordLeader, Memory.read_write_other _ _ _ _ hne]

/-- LEADER reads depend on the memory and the reset count alone. -/
theorem leaderAt_congr {s t : State} (hl : t.leader = s.leader) (hr : t.resets = s.resets)
    (a : Syndrome) : leaderAt t a = leaderAt s a := by
  simp [leaderAt, hl, hr]

/-- The artifact's bytes depend on the memory and the reset count alone. -/
theorem artifactPrefix_congr {s t : State} (hl : t.leader = s.leader) (hr : t.resets = s.resets)
    (n : Nat) : artifactPrefix t n = artifactPrefix s n := by
  simp [artifactPrefix, leaderAt_congr hl hr]

/-- FOUND reads depend on the bitmap alone. -/
theorem foundAt_congr {s t : State} (hf : t.found = s.found) (a : Syndrome) :
    foundAt t a = foundAt s a := by
  simp [foundAt, hf]

/-- When a search begins no syndrome is found. -/
@[simp] theorem foundAt_searchBegin (s : State) (a : Syndrome) :
    foundAt (searchBegin s) a = false := by
  simp [foundAt, searchBegin]

end Sys2Proof.Machine
end

