-- ==== Sys2Proof/Laws/PerInstr.lean ====
section
/-! SUPPORT. The per-instruction family MatchMask: the word of a command has the fixed bits of its row
of spec 30_encoding.md R93. -/

namespace Sys2Proof.Laws.MatchMask

open Sys2Proof

/-- The encoded word under the row's mask is the row's match. -/
def Statement (i : Instr) : Prop := encode i &&& i.opcode.fixedMask = i.opcode.fixedBits

theorem nop : Statement .nop := rfl

theorem init : Statement .init := rfl

theorem synd (imm24 : Pattern) : Statement (.synd imm24) := by
  unfold Statement encode Instr.imm Instr.opcode Opcode.bits Opcode.fixedMask Opcode.fixedBits field
  apply BitVec.eq_of_getLsbD_eq
  intro j hj
  interval_cases j <;> simp

theorem build : Statement .build := rfl

theorem rdrow (imm12 : Syndrome) : Statement (.rdrow imm12) := by
  unfold Statement encode Instr.imm Instr.opcode Opcode.bits Opcode.fixedMask Opcode.fixedBits field
  apply BitVec.eq_of_getLsbD_eq
  intro j hj
  interval_cases j <;> simp

theorem ser : Statement .ser := rfl

theorem run : Statement .run := rfl

end Sys2Proof.Laws.MatchMask
end

