-- ==== Sys2Proof/Laws/Words.lean ====
section
/-! SUPPORT. The bits of the words the GF(2) functions and the enumerator build. -/

namespace Sys2Proof.Machine

/-- A built word has the bits it was built from. -/
@[simp] theorem getLsbD_bitsOf (n : Nat) (f : Nat → Bool) (j : Nat) :
    (bitsOf n f).getLsbD j = (decide (j < n) && f j) := by
  induction n with
  | zero => simp [bitsOf]
  | succ n ih =>
    rw [bitsOf, BitVec.getLsbD_cons, ih]
    by_cases h : j = n
    · simp [h]
    · have hlt : (j < n + 1) ↔ (j < n) := by omega
      simp [h, hlt]

/-- Row i of a matrix is its entry i. -/
theorem rowAt_eq (m : Matrix) (i : Nat) (h : i < 12) : rowAt m i = m[i] := by
  simp [rowAt, h]

/-- The rows of the derived H (40_generator_and_parity_check.md R124). -/
theorem rowAt_deriveH (g : Matrix) (i : Nat) (h : i < 12) : rowAt (deriveH g) i = deriveRow g i := by
  interval_cases i <;> rfl

/-- The rows of a matrix of equal rows. -/
theorem rowAt_replicate (v : Pattern) (i : Nat) (h : i < 12) :
    rowAt (Vector.replicate 12 v) i = v := by
  simp [rowAt, h]

/-- The entries of a built index tuple. -/
theorem idxAt_idxOf (f : Nat → BitVec 5) (k : Nat) (h : k < 6) : idxAt (idxOf f) k = (f k).toNat := by
  interval_cases k <;> rfl

/-- The cleared index tuple is 0 everywhere. -/
@[simp] theorem idxAt_zero (k : Nat) : idxAt (Vector.replicate 6 0#5) k = 0 := by
  unfold idxAt
  by_cases h : k < 6
  · simp [h]
  · simp [Vector.getElem?_eq_none (xs := Vector.replicate 6 0#5) (Nat.le_of_not_lt h)]

/-- The only pattern of weight class 0 (42_coset_leader_search.md R163). -/
@[simp] theorem pattern_zero (idx : Vector (BitVec 5) 6) : pattern 0#3 idx = 0#24 := rfl

/-- No position is set in the zero word. -/
@[simp] theorem positions_zero (n : Nat) : positions (0#n) = [] := by simp [positions]

/-- The zero word has weight 0. -/
@[simp] theorem weight_zero (n : Nat) : weight (0#n) = 0 := by simp [weight]

/-- A position is in the list exactly when its bit is set. -/
theorem mem_positions {n : Nat} (v : BitVec n) (j : Nat) :
    j ∈ positions v ↔ j < n ∧ v.getLsbD j = true := by
  simp [positions]

end Sys2Proof.Machine
end

