-- ==== Sys2Proof/Tests/Slice0.lean ====
section
/-! SUPPORT. The model's own tests: the well-formedness smoke test, words spelled from the encoding
tables, vectors of spec 95_test_vectors.md (named in each docstring), and for every statement with
hypotheses a witness that meets them. -/

namespace Sys2Proof.Tests

open Sys2Proof Sys2Proof.Machine

/-! ## Helper states -/

/-- `G_ALT` (95_test_vectors.md section 2.1), whose P is not symmetric. -/
def gAlt : Matrix :=
  #v[0xC75001#24, 0x49F002#24, 0xD4B004#24, 0x6E3008#24, 0x9B3010#24, 0xB66020#24,
    0xECC040#24, 0x1ED080#24, 0x3DA100#24, 0x7B4200#24, 0xB1D400#24, 0xE3A800#24]

/-- `G_DUP` (95_test_vectors.md section 2.1): row 11 is a copy of row 0. -/
def gDup : Matrix := Config.gDef.set 11 0xA3B001#24

/-- `G_SWAP` (95_test_vectors.md section 2.1), not in standard form. -/
def gSwap : Matrix := (Config.gDef.set 0 0xD1D002#24).set 1 0xA3B001#24

/-- After a successful INIT on `G_DEF`; FOUND is given a value so that tests can evaluate it. -/
def ready : State :=
  { State.reset with hRows := deriveH Config.gDef, hValid := true, found := 0, op := .init }

/-- Right after the accept step of BUILD. -/
def searching : State := { ready with runState := .busy, op := .build, phase := .search }

/-- After the first SEARCH step: the zero pattern recorded. -/
def firstDone : State :=
  { searching with leader := [(0, 0)], found := 1, count := 1, cand := 1, w := 1 }

/-- The table flags set, as after a completed BUILD. -/
def tabled : State :=
  { ready with tableValid := true, count := 4096, found := BitVec.allOnes 4096, op := .build }

/-- A serialization before its first byte, the sink about to answer `ok`. -/
def sending : State :=
  { tabled with runState := .busy, op := .ser, phase := .serial, answers := [.ok] }

/-- A serialization before its last byte. -/
def sendingLast : State :=
  { sending with row := 4095, byte := 2, out := artifactPrefix sending 12287 }

/-- INIT accepted. -/
def initBusy : State :=
  { State.reset with found := 0, runState := .busy, op := .init, phase := .init }

/-- INIT accepted on a G of rank 0. -/
def initRankZero : State :=
  { initBusy with cfg := { gRom := Vector.replicate 12 0#24, wMax := 6 } }

/-- SearchIncompleteError at `W_MAX` = 0 (V-BUILD-4, first row). -/
def faulted : State :=
  { searching with
    cfg := { gRom := Config.gDef, wMax := 0 }, leader := [(0, 0)], found := 1, count := 1, cand := 1,
    runState := .fault, err := .searchIncomplete, errInfo := 8 }

/-- The outcome is a next state that passes the check. -/
def nextMeets (o : Host.Outcome State Fault Refusal) (check : State → Bool) : Bool :=
  match o with
  | .next t => check t
  | .fault _ => false
  | .refused _ => false

/-! ## Well-formedness and decoding -/

/-- The widest SYND operand is well formed, the next one is not (R101). -/
theorem test_wf_synd : AsmLine.wf (.synd 0xFFFFFF) = true ∧ AsmLine.wf (.synd 0x1000000) = false := by
  decide

/-- The widest RDROW operand is well formed, the next one is not (R101). -/
theorem test_wf_rdrow : AsmLine.wf (.rdrow 4095) = true ∧ AsmLine.wf (.rdrow 4096) = false := by
  decide

/-- Every command is well formed (R92). -/
theorem test_wf_instr : ∀ i : Instr, i.wf = true := by intro i; cases i <;> rfl

/-- NOP, oooo = 0000 and 28 zero bits (R91). -/
theorem test_decode_nop : decode 0b00000000000000000000000000000000 = .ok .nop := by decide

/-- INIT, oooo = 0001 (R91). -/
theorem test_decode_init : decode 0b00010000000000000000000000000000 = .ok .init := by decide

/-- SYND with positions 0, 5 and 17 set (R91, program P1). -/
theorem test_decode_synd :
    decode 0b00100000000000100000000000100001 = .ok (.synd 0x020021) := by decide

/-- SYND with the top position alone: bit 23 belongs to the operand (R92). -/
theorem test_decode_synd_top :
    decode 0b00100000100000000000000000000000 = .ok (.synd 0x800000) := by decide

/-- BUILD, oooo = 0011 (R91). -/
theorem test_decode_build : decode 0b00110000000000000000000000000000 = .ok .build := by decide

/-- RDROW of row 4CA (R91, program P4). -/
theorem test_decode_rdrow : decode 0b01000000000000000000010011001010 = .ok (.rdrow 0x4CA) := by
  decide

/-- SER, oooo = 0101 (R91). -/
theorem test_decode_ser : decode 0b01010000000000000000000000000000 = .ok .ser := by decide

/-- RUN, oooo = 0110 (R91). -/
theorem test_decode_run : decode 0b01100000000000000000000000000000 = .ok .run := by decide

/-- The illegal words of V-REJ-1, each by its reason. -/
theorem test_decode_illegal :
    decode 0x70000000 = .error .reservedOpcode ∧ decode 0xF0000000 = .error .reservedOpcode ∧
    decode 0x01000000 = .error .reservedBits ∧ decode 0x2F000000 = .error .reservedBits ∧
    decode 0x10000001 = .error .immediateBits ∧ decode 0x60800000 = .error .immediateBits ∧
    decode 0x40001000 = .error .immediateBits := by decide

/-- The encoder on the words of 95_test_vectors.md. -/
theorem test_encode :
    encode (.synd 0x020021) = 0x20020021 ∧ encode (.rdrow 0x4CA) = 0x400004CA ∧
    encode .run = 0x60000000 := by decide

/-- The first command after reset runs: NOP is accepted (V-NOP-1). -/
theorem test_first_command_nop :
    nextMeets (step (State.reset.withFetchWord 32 0))
      (fun t => status t == 0x00000001 && posWord t == 0x00000006) = true := by decide

/-- A SYND as the first command after reset is rejected: H_VALID is 0 (V-REJ-1). -/
theorem test_first_command_synd :
    nextMeets (step (State.reset.withFetchWord 32 0x20000001))
      (fun t => status t == 0x00000020 && t.eReg == 0) = true := by decide

/-! ## GF(2) and the enumerator -/

/-- H of `G_ALT`, which shows a missing transpose (V-INIT-2). -/
theorem test_derive_alt :
    deriveRow gAlt 0 = 0x00149F ∧ deriveRow gAlt 11 = 0x800C75 ∧ deriveRow gAlt 2 = 0x0046E3 := by
  decide

/-- `G_SWAP` is not in standard form and a row of it is no codeword of H (V-INIT-5). -/
theorem test_swap_syndrome : syndrome (deriveH gSwap) 0xD1D002 = 0x726 := by decide +kernel

/-- A syndrome for `G_ALT` (V-SYND-4). -/
theorem test_syndrome_alt : syndrome (deriveH gAlt) 0xABCDEF = 0xB44 := by decide +kernel

/-- The rank of `G_DEF` (R123). -/
theorem rank_gDef : rank12 Config.gDef = 12 := by decide +kernel

/-- The ranks of V-INIT-3. -/
theorem test_ranks :
    rank12 gDup = 11 ∧ rank12 (Config.gDef.set 2 0x726003#24) = 11 ∧
    rank12 (Vector.replicate 12 0xA3B001#24) = 1 ∧ rank12 (Vector.replicate 12 0#24) = 0 := by
  decide +kernel

/-- Successors (V-BUILD-8). -/
theorem test_next_comb :
    nextComb 0 #v[0, 0, 0, 0, 0, 0] = none ∧
    nextComb 1 #v[23, 0, 0, 0, 0, 0] = none ∧
    nextComb 2 #v[0, 23, 0, 0, 0, 0] = some #v[1, 2, 0, 0, 0, 0] ∧
    nextComb 3 #v[5, 22, 23, 0, 0, 0] = some #v[6, 7, 8, 0, 0, 0] ∧
    nextComb 5 #v[1, 2, 3, 22, 23, 0] = some #v[1, 2, 4, 5, 6, 0] ∧
    nextComb 6 #v[0, 7, 8, 9, 10, 23] = some #v[0, 7, 8, 9, 11, 12] ∧
    nextComb 6 #v[18, 19, 20, 21, 22, 23] = none := by decide

/-! ## Single steps -/

/-- After reset STATUS, POS and H0 read 0, CONFIG reads 6 and G11 is the last row (V-RESET-1). -/
theorem test_reset_reads :
    hostRead State.reset 0x01 = 0 ∧ hostRead State.reset 0x07 = 0 ∧ hostRead State.reset 0x20 = 0 ∧
    hostRead State.reset 0x09 = 6 ∧ hostRead State.reset 0x1B = 0x007FF800 ∧
    hostRead State.reset 0x3F = 0 := by decide

/-- The INIT step on `G_DEF` (V-INIT-1). -/
theorem test_init :
    status (initStep initBusy) = 0x00001004 ∧ hostRead (initStep initBusy) 0x20 = 0x00001A3B := by
  decide +kernel

/-- The INIT step on a G of rank 11 (V-INIT-3). -/
theorem test_init_rank :
    status (initStep { initBusy with cfg := { gRom := gDup, wMax := 6 } }) = 0x00001102 ∧
    (initStep { initBusy with cfg := { gRom := gDup, wMax := 6 } }).errInfo = 0x000B0000 := by
  decide +kernel

/-- The SYND step (V-SYND-5). -/
theorem test_synd :
    (syndStep { ready with
      runState := .busy, op := .synd, phase := .synd, eReg := 0x020021 }).sReg = 0x4CA := by
  decide +kernel

/-- The first SEARCH step (V-BUILD-1, CAND = 1). -/
theorem test_search_first :
    (searchStep searching).count = 1 ∧ posWord (searchStep searching) = 0x0000000B := by
  decide +kernel

/-- The only candidate at `W_MAX` = 0 ends in SearchIncompleteError (V-BUILD-4). -/
theorem test_search_ceiling :
    status (searchStep { searching with cfg := { gRom := Config.gDef, wMax := 0 } }) = 0x00003206 ∧
    (searchStep { searching with cfg := { gRom := Config.gDef, wMax := 0 } }).errInfo = 8 := by
  decide +kernel

/-- The RDROW step reads the listed cell (V-RDROW-1). -/
theorem test_rdrow :
    (rdrowStep { tabled with
      leader := [(0x4CA, 0x020021)], runState := .busy, op := .rdrow, phase := .rdrow,
      sReg := 0x4CA }).eReg = 0x020021 := by decide

/-- The SERIAL step sends byte 1 of row 1 and moves on (V-SER-1, step 5). -/
theorem test_serial :
    posWord (serialStep { sending with leader := [(1, 0x001000)], row := 1, byte := 1, w := 4 })
      = 0x00080065 ∧
    (serialStep { sending with leader := [(1, 0x001000)], row := 1, byte := 1, out := [0] }).out
      = [0, 0x10] := by decide

/-- An `err` at offset 5 (V-SER-3). -/
theorem test_serial_err :
    (serialStep { sending with row := 1, byte := 2, w := 4, answers := [.err] }).errInfo
      = 0x00058004 := by decide

/-- RUN goes from its INIT step into the search (R222). -/
theorem test_run_chains :
    (initStep { initBusy with op := .run }).phase = .search ∧
    (initStep { initBusy with op := .run }).runState = .busy := by decide +kernel

/-! ## The invariants hold somewhere -/

/-- No candidate comes before the zero pattern. -/
theorem not_before_zero (e : Pattern) : ¬ CandidateBefore e 0#24 := by
  rintro (h | ⟨_, h⟩)
  · simp at h
  · simp at h

/-- A pattern other than 0 comes after the zero pattern. -/
theorem zero_or_before (e : Pattern) : e = 0#24 ∨ CandidateBefore 0#24 e := by
  by_cases h : e = 0#24
  · exact .inl h
  · right
    left
    rw [weight_zero]
    by_contra hw
    have hnil : positions e = [] := List.eq_nil_of_length_eq_zero (by
      show weight e = 0
      omega)
    apply h
    apply BitVec.eq_of_getLsbD_eq
    intro j hj
    cases hb : e.getLsbD j with
    | false => simp
    | true =>
      have : j ∈ positions e := (mem_positions e j).2 ⟨hj, hb⟩
      simp [hnil] at this

/-- The cleared tuple is the empty subset. -/
theorem validComb_zero : ValidComb 0#3 (Vector.replicate 6 0#5) := by simp [ValidComb]

/-- The first subset of class 1 is the cleared tuple. -/
theorem validComb_one : ValidComb 1#3 (Vector.replicate 6 0#5) := by simp [ValidComb]

/-- Witness: a search about to begin meets the control invariant. -/
theorem control_searching : ControlInv searching := by
  constructor <;>
    simp [searching, ready, State.reset, Config.default, SearchBegun, phaseOf, rank_gDef,
      validComb_zero]

/-- Witness: a search after its first step meets the control invariant. -/
theorem control_firstDone : ControlInv firstDone := by
  constructor <;>
    simp [firstDone, searching, ready, State.reset, Config.default, SearchBegun, phaseOf, rank_gDef,
      validComb_one]

/-- Witness: a command word waiting in IDLE. -/
theorem control_ready : ControlInv ready := by
  constructor <;>
    simp [ready, State.reset, Config.default, SearchBegun, phaseOf, rank_gDef, validComb_zero]

/-- Witness: a serialization at any place in range meets the control invariant. -/
theorem control_sending (row : BitVec 12) (byte : BitVec 2) (out : List Byte)
    (h : byte.toNat ≤ 2) : ControlInv { sending with row := row, byte := byte, out := out } := by
  constructor <;>
    simp [sending, tabled, ready, State.reset, Config.default, SearchBegun, phaseOf, rank_gDef,
      validComb_zero, h]

/-- Witness: a faulted state meets the control invariant. -/
theorem control_faulted : ControlInv faulted := by
  constructor <;>
    simp [faulted, searching, ready, State.reset, SearchBegun, phaseOf, rank_gDef, validComb_zero]

/-- Only syndrome 0 is found after the first step. -/
theorem foundAt_firstDone (a : Syndrome) (h : foundAt firstDone a = true) : a = 0 := by
  have h1 : (1#4096).getLsbD a.toNat = true := h
  rw [BitVec.getLsbD_one] at h1
  simp only [Bool.and_eq_true, decide_eq_true_eq] at h1
  exact BitVec.eq_of_toNat_eq (by simpa using h1.2)

/-- Nothing is found when a search has just begun. -/
theorem foundAt_searching (a : Syndrome) : foundAt searching a = false := by
  show (0#4096).getLsbD a.toNat = false
  simp

/-- Witness: the search invariant at the start of a search. -/
theorem search_searching : SearchInv searching where
  leader_wf := Memory.wf_nil
  found_leader _ a h := absurd h (by simp [foundAt_searching])
  count_found _ := by
    show (0#13).toNat = weight (0#4096)
    simp
  count_searching _ := by decide
  table_full h := absurd h (by decide)

/-- Witness: the search invariant after the first step. -/
theorem search_firstDone : SearchInv firstDone where
  leader_wf := by decide
  found_leader _ a h := by
    have := foundAt_firstDone a h
    subst this
    exact ⟨0, rfl, by decide +kernel, by decide⟩
  count_found _ := by
    show (1#13).toNat = weight (1#4096)
    decide +kernel
  count_searching _ := by decide
  table_full h := absurd h (by decide)

/-- Witness: the candidate count at the start of a search. -/
theorem cand_searching : CandInv searching where
  cand_exact _ _ := by
    have h : {e : Pattern | CandidateBefore e (pattern searching.w searching.idx)} = ∅ :=
      Set.eq_empty_of_forall_notMem fun e he => not_before_zero e he
    rw [h, Set.ncard_empty]
    rfl
  cand_le := Nat.zero_le _

/-- Witness: minimality at the start of a search. -/
theorem minimal_searching : MinimalInv searching where
  enumerated _ _ e h := absurd h (not_before_zero e)
  first_of_coset _ a h := absurd h (by simp [foundAt_searching])

/-- Witness: minimality after the first step. -/
theorem minimal_firstDone : MinimalInv firstDone where
  enumerated _ _ e h := by
    rcases zero_or_before e with rfl | hz
    · decide +kernel
    · exfalso
      have hp : pattern firstDone.w firstDone.idx = 1#24 := by decide
      rw [hp] at h
      have h1 : weight (1#24) = 1 := by decide
      have h2 : positions (1#24) = [0] := by decide
      have hw : 0 < weight e := by
        rcases hz with hz | ⟨_, hz⟩
        · simpa using hz
        · cases hpe : positions e with
          | nil => rw [hpe] at hz; simp at hz
          | cons x xs => simp [weight, hpe]
      rcases h with h | ⟨hwe, hlt⟩
      · omega
      · rw [h1] at hwe
        rw [h2] at hlt
        cases hpe : positions e with
        | nil => simp [weight, hpe] at hwe
        | cons x xs =>
          rw [hpe, List.cons_lt_cons_iff] at hlt
          rcases hlt with hlt | ⟨_, hlt⟩
          · omega
          · simp at hlt
  first_of_coset _ a h e _ := by
    have := foundAt_firstDone a h
    subst this
    exact zero_or_before e

/-- Witness: a serialization before its first byte meets the sink's invariant. -/
theorem sink_sending : SinkInv sending where
  sent_prefix _ h := absurd h (by decide)
  committed_length h := absurd h (by decide)

/-- Witness: a serialization before its last byte meets the sink's invariant. -/
theorem sink_sendingLast : SinkInv sendingLast where
  sent_prefix _ _ := by
    have h : byteOffset sendingLast = 12287 := by decide
    have ho : sendingLast.out = artifactPrefix sending 12287 := by rw [sendingLast]
    have hc : artifactPrefix sending 12287 = artifactPrefix sendingLast 12287 :=
      artifactPrefix_congr (by rw [sendingLast]) (by rw [sendingLast]) 12287
    rw [h, ho, hc]
  committed_length h := absurd h (by decide)

/-! ## Witnesses: the hypotheses of each statement can be met -/

/-- `G_DEF` is in standard form. -/
theorem standardForm_gDef : StandardForm Config.gDef := by
  intro r hr
  interval_cases r <;> decide

/-- No reset comes next in a state whose schedule is exhausted. -/
theorem no_reset_of_nil {s : State} (h : s.inputs = []) : ¬ ResetTurn s := by
  rintro ⟨taken, rest, hr⟩
  simp [h] at hr

theorem witness_DecodeEncodeRoundTrip : decode 0x4FFFF = .error .immediateBits ∧
    decode 0x40000FFF = .ok (.rdrow 0xFFF) ∧ decode 0x20FFFFFF = .ok (.synd 0xFFFFFF) := by decide

theorem witness_ImmediatesUsedAsTheyStand :
    decode 0x20FFFFFF = .ok (.synd 0xFFFFFF) ∧ decode 0x20000000 = .ok (.synd 0) ∧
    decode 0x40000FFF = .ok (.rdrow 0xFFF) ∧ decode 0x40000000 = .ok (.rdrow 0) := by decide

theorem witness_IllegalWordsAreRejected :
    decode 0x7FFFFFFF = .error .reservedOpcode ∧ decode 0x6F000000 = .error .reservedBits ∧
    decode 0x60000001 = .error .immediateBits ∧ decode 0x40800000 = .error .immediateBits := by
  decide

theorem witness_AssemblerLinesHaveTheirWords :
    0xFFFFFF < 2 ^ 24 ∧ 2 ^ 24 ≤ 0x1000000 ∧ 4095 < 2 ^ 12 ∧ 2 ^ 12 ≤ 4096 := by decide

theorem witness_StepRunsDecodedCommand :
    ({ ready with inputs := [.write 0 0x20020021] } : State).inputs = .write 0 0x20020021 :: [] ∧
    decode 0x20020021 = .ok (.synd 0x020021) ∧ ready.inputs = [] ∧
    ({ ready with inputs := [.read 0x2B] } : State).inputs = .read 0x2B :: [] ∧
    ({ ready with inputs := [.write 0x3F 1] } : State).inputs = .write 0x3F 1 :: [] ∧
    ({ searching with inputs := [.run] } : State).inputs = .run :: [] ∧
    ({ searching with inputs := [.wait] } : State).runState = .busy ∧
    ({ ready with inputs := [.wait] } : State).runState ≠ .busy ∧
    ({ sending with inputs := [.reset true] } : State).inputs = .reset true :: [] := by decide

theorem witness_CommandWriteAcceptsOrRejects :
    searching.runState ≠ .idle ∧ faulted.runState ≠ .idle ∧
    (∃ r, decode 0x70000000 = .error r) ∧
    (decode 0x20000001 = .ok (.synd 1) ∧ ¬ CommandReady (.synd 1) State.reset) ∧
    (decode 0x40000001 = .ok (.rdrow 1) ∧ ¬ CommandReady (.rdrow 1) ready) ∧
    ready.runState = .idle ∧ CommandReady (.synd 1) ready ∧ CommandReady (.rdrow 1) tabled := by
  refine ⟨by decide, by decide, ⟨.reservedOpcode, by decide⟩, ⟨by decide, ?_⟩, ⟨by decide, ?_⟩,
    by decide, rfl, rfl⟩ <;> simp [CommandReady, State.reset, ready]

theorem witness_AcceptStepOfEachCommand :
    tabled.runState = .idle ∧ tabled.hValid = true ∧ tabled.tableValid = true := by decide

theorem witness_RegisterPort :
    (0x0A ≤ (0x0A#6).toNat ∧ (0x0F#6).toNat ≤ 0x0F) ∧
    (0x1C ≤ (0x1C#6).toNat ∧ (0x1F#6).toNat ≤ 0x1F) ∧ 0x2C ≤ (0x2C#6).toNat ∧
    0x2C ≤ (0x3F#6).toNat ∧
    (0x01#6) ≠ 0 ∧ (0x3F#6) ≠ 0 := by decide

theorem witness_StatusFields : ControlInv faulted ∧ ControlInv ready :=
  ⟨control_faulted, control_ready⟩

theorem witness_PositionRegisterFields : ∃ t, step ready = .next t := ⟨_, rfl⟩

theorem witness_NopCompletes : ready.runState = .idle ∧ faulted.runState = .fault := by decide

theorem witness_InitCompletes :
    ready.runState = .idle ∧ 12 ≤ rank12 ready.cfg.gRom ∧
    ({ ready with cfg := initRankZero.cfg } : State).runState = .idle ∧
    rank12 initRankZero.cfg.gRom < 12 := by
  refine ⟨rfl, ?_, rfl, by decide +kernel⟩
  exact Nat.le_of_eq rank_gDef.symm

theorem witness_SyndCompletes : ready.runState = .idle ∧ ready.hValid = true := by decide

theorem witness_RdrowCompletes : tabled.runState = .idle ∧ tabled.tableValid = true := by decide

theorem witness_RunBeginsTheBatch :
    ready.runState = .idle ∧ 12 ≤ rank12 ready.cfg.gRom ∧
    ({ ready with cfg := initRankZero.cfg } : State).runState = .idle ∧
    rank12 initRankZero.cfg.gRom < 12 := witness_InitCompletes

theorem witness_BuildTerminates :
    ready.runState = .idle ∧ ready.hValid = true ∧ ready.inputs = [] := by decide

theorem witness_SerSendsTheWholeArtifact : ∃ s : State, s.runState = .idle ∧ s.tableValid = true ∧
    s.inputs = [] ∧ s.answers = List.replicate 12288 SinkAnswer.ok ++ [.err] :=
  ⟨{ tabled with answers := List.replicate 12288 SinkAnswer.ok ++ [.err] }, rfl, rfl, rfl, rfl⟩

theorem witness_InitStepChecksThenDerives :
    initBusy.runState = .busy ∧ initBusy.phase = .init ∧ 12 ≤ rank12 initBusy.cfg.gRom ∧
    initRankZero.runState = .busy ∧ initRankZero.phase = .init ∧
    rank12 initRankZero.cfg.gRom < 12 :=
  ⟨rfl, rfl, Nat.le_of_eq rank_gDef.symm, rfl, rfl, by decide +kernel⟩

theorem witness_CompleteChainsRun :
    ({ initBusy with op := .run } : State).op = .run ∧ initBusy.phase = .init ∧
    ({ searching with op := .run } : State).phase = .search ∧ searching.op ≠ .run ∧
    ({ sending with op := .run } : State).phase ≠ .init ∧
    ({ sending with op := .run } : State).phase ≠ .search ∧
    ∃ t, sequencerStep { ready with runState := .busy, phase := .nop } = .next t ∧
      t.runState = .idle := ⟨rfl, rfl, rfl, by decide, by decide, by decide, _, rfl, rfl⟩

theorem witness_SyndStepWritesSyndrome :
    ({ ready with runState := .busy, phase := .synd } : State).runState = .busy ∧
    ({ ready with runState := .busy, phase := .synd } : State).phase = .synd := by decide

theorem witness_RdrowStepReadsTheRow :
    ({ tabled with runState := .busy, phase := .rdrow } : State).runState = .busy ∧
    ({ tabled with runState := .busy, phase := .rdrow } : State).phase = .rdrow := by decide

theorem witness_FirstSeenCandidateWins :
    searching.runState = .busy ∧ searching.phase = .search ∧
    foundAt searching (syndrome searching.hRows (pattern searching.w searching.idx)) = false ∧
    foundAt { searching with found := 1 }
      (syndrome searching.hRows (pattern searching.w searching.idx)) = true ∧
    (1#12) ≠ syndrome searching.hRows (pattern searching.w searching.idx) := by decide +kernel

/-- One state for each clause: the last syndrome, a successor, the next class, the ceiling. -/
theorem witness_SearchStepAdvances :
    (searchStep { searching with count := 4095 }).count = 4096 ∧
    (searchStep { searching with count := 4095, op := .run }).count = 4096 ∧
    ((searchStep firstDone).count ≠ 4096 ∧
      nextComb firstDone.w firstDone.idx = some #v[1, 0, 0, 0, 0, 0]) ∧
    ((searchStep searching).count ≠ 4096 ∧ nextComb searching.w searching.idx = none ∧
      searching.w.toNat < searching.cfg.wMax.val) ∧
    (faulted.cfg.wMax.val ≤ faulted.w.toNat ∧ nextComb faulted.w faulted.idx = none) ∧
    sequencerStep searching = .next (searchStep searching) :=
  ⟨by decide +kernel, by decide +kernel, by decide +kernel, by decide +kernel, by decide, rfl⟩

theorem witness_SerialStepSendsOneByte :
    sending.runState = .busy ∧ sending.phase = .serial ∧ sending.answers = .ok :: [] ∧
    ({ sending with answers := [] } : State).answers = [] ∧
    ({ sending with answers := [.err] } : State).answers = .err :: [] ∧
    (sendingLast.row = 4095 ∧ sendingLast.byte = 2) ∧
    (({ sending with row := 4094, byte := 2 } : State).row ≠ 4095 ∧
      ({ sending with row := 4094, byte := 2 } : State).byte = 2) ∧ sending.byte ≠ 2 := by
  refine ⟨rfl, rfl, rfl, rfl, rfl, ⟨rfl, rfl⟩, by decide, by decide⟩

theorem witness_RunDoesInitThenBuildThenSer :
    (initRankZero.op = .init ∧ ∃ t, sequencerStep initRankZero = .next t ∧ t.runState = .fault) ∧
    (initBusy.op = .init ∧ ∃ t, sequencerStep initBusy = .next t ∧ t.runState ≠ .fault) ∧
    (searching.op = .build ∧ ∃ t, sequencerStep searching = .next t ∧ t.runState ≠ .idle) ∧
    (∃ t, sequencerStep { searching with count := 4095 } = .next t ∧ t.runState = .idle) ∧
    sending.op = .ser ∧ ∃ t, sequencerStep sending = .next t :=
  ⟨⟨rfl, initStep initRankZero, rfl, by decide +kernel⟩,
    ⟨rfl, initStep initBusy, rfl, by decide +kernel⟩,
    ⟨rfl, searchStep searching, rfl, by decide +kernel⟩,
    ⟨searchStep { searching with count := 4095 }, rfl, by decide +kernel⟩, rfl, _, rfl⟩

theorem witness_FaultIsAbsorbing :
    faulted.runState = .fault ∧ (0x3F#6) ≠ 0 ∧
    ({ faulted with inputs := [.wait] } : State).inputs = .wait :: [] ∧
    (step faulted = .next faulted ∧ ¬ ResetTurn faulted) ∧
    ResetTurn { faulted with inputs := [.reset false] } :=
  ⟨by decide, by decide, rfl, ⟨rfl, by rintro ⟨_, _, h⟩; cases h⟩, false, [], rfl⟩

theorem witness_ResetStateValues : ∃ t, t = hardReset faulted := ⟨_, rfl⟩

theorem witness_ResetTurnInAnyState :
    ({ faulted with inputs := [.reset false] } : State).inputs = .reset false :: [] ∧
    ({ sending with inputs := [.reset true] } : State).inputs = .reset true :: [] ∧
    faulted.runState ≠ .busy ∧ searching.phase ≠ .serial ∧
    ({ sending with inputs := [.reset true] } : State).runState = .busy ∧
    ({ sending with inputs := [.reset true] } : State).phase = .serial := by decide

theorem witness_ConstantsAndHStay :
    (∃ t, step initBusy = .next t ∧ t.hRows ≠ initBusy.hRows) ∧
    (∃ t, step ready = .next t) ∧ ControlInv ready ∧ ready.hValid = true ∧ ¬ ResetTurn ready :=
  ⟨⟨initStep initBusy, rfl, by decide +kernel⟩, ⟨_, rfl⟩, control_ready, rfl, no_reset_of_nil rfl⟩

theorem witness_WritersOfEAndS :
    (∃ t, step { ready with inputs := [.write 0 0x20020021] } = .next t ∧ t.eReg ≠ 0) ∧
    (¬ ResetTurn { ready with inputs := [.write 0 0x20020021] }) ∧
    (∃ t, step { tabled with
      leader := [(0, 5)], runState := .busy, op := .rdrow, phase := .rdrow } = .next t ∧
      t.eReg ≠ 0) ∧
    (∃ t, step { tabled with inputs := [.write 0 0x400004CA] } = .next t ∧ t.sReg ≠ 0) ∧
    ∃ t, step { ready with
      runState := .busy, op := .synd, phase := .synd, eReg := 1 } = .next t ∧ t.sReg ≠ 0 := by
  refine ⟨⟨_, rfl, by decide⟩, ?_, ⟨_, rfl, by decide⟩, ⟨_, rfl, by decide⟩,
    ⟨_, rfl, by decide +kernel⟩⟩
  rintro ⟨taken, rest, h⟩
  simp at h

/-- One state for each way a flag changes. -/
theorem witness_WritersOfFlags :
    (∃ t, step initBusy = .next t ∧ initBusy.hValid = false ∧ t.hValid = true) ∧
    (∃ t, step { searching with count := 4095 } = .next t ∧ searching.tableValid = false ∧
      t.tableValid = true) ∧
    (∃ t, step { tabled with inputs := [.write 0 0x30000000] } = .next t ∧
      tabled.tableValid = true ∧ t.tableValid = false) ∧
    (∃ t, step { sending with row := 4095, byte := 2 } = .next t ∧ sending.outCommit = false ∧
      t.outCommit = true) ∧
    (∃ t, step { tabled with outCommit := true, inputs := [.write 0 0x50000000] } = .next t ∧
      t.outCommit = false) ∧
    (∃ t, step { ready with inputs := [.write 0 0x70000000] } = .next t ∧
      t.cmdRej ≠ ready.cmdRej) ∧ ¬ ResetTurn initBusy :=
  ⟨⟨initStep initBusy, rfl, rfl, by decide +kernel⟩,
    ⟨searchStep { searching with count := 4095 }, rfl, rfl, by decide +kernel⟩,
    ⟨_, rfl, rfl, by decide⟩, ⟨_, rfl, rfl, by decide⟩, ⟨_, rfl, by decide⟩, ⟨_, rfl, by decide⟩,
    no_reset_of_nil rfl⟩

theorem witness_TransitionsOfState :
    (∃ t, step { ready with inputs := [.write 0 0] } = .next t ∧ ready.runState = .idle ∧
      t.runState = .busy) ∧
    (∃ t, step { searching with count := 4095 } = .next t ∧ t.runState = .idle) ∧
    (∃ t, step initRankZero = .next t ∧ t.runState = .fault) ∧
    (∃ t, step faulted = .next t ∧ faulted.runState = .fault) ∧ ¬ ResetTurn faulted :=
  ⟨⟨_, rfl, rfl, by decide⟩, ⟨searchStep { searching with count := 4095 }, rfl, by decide +kernel⟩,
    ⟨initStep initRankZero, rfl, by decide +kernel⟩, ⟨_, rfl, rfl⟩, no_reset_of_nil rfl⟩

theorem witness_WritersOfMemories :
    (∃ t, step sending = .next t) ∧ ¬ ResetTurn sending ∧
    ¬ (SequencerTurn sending ∧ sending.phase = .search) ∧
    (∃ t, step { ready with inputs := [.write 0 0x30000000] } = .next t ∧ t.phase = .search) ∧
    ¬ (SequencerTurn searching ∧ searching.phase = .serial) := by
  refine ⟨⟨_, rfl⟩, no_reset_of_nil rfl, fun h => ?_, ⟨_, rfl, by decide⟩, fun h => ?_⟩
  · exact absurd h.2 (by decide)
  · exact absurd h.2 (by decide)

theorem witness_CommandFrame : ∃ t, exec .build ready = .next t := ⟨_, rfl⟩

theorem witness_PhaseStepFrame :
    (∃ t, sequencerStep initBusy = .next t) ∧ initBusy.runState = .busy ∧
    (∃ t, sequencerStep sending = .next t) ∧ sending.runState = .busy ∧
    sending.phase ≠ .search := ⟨⟨_, rfl⟩, rfl, ⟨_, rfl⟩, rfl, by decide⟩

theorem witness_OnlyStopIsNoPhase :
    ControlInv searching ∧ step { ready with runState := .busy } = .fault .noPhase :=
  ⟨control_searching, rfl⟩

theorem witness_StepKeepsControlInv : ControlInv searching ∧ ∃ t, step searching = .next t :=
  ⟨control_searching, _, rfl⟩

theorem witness_StepKeepsSearchInv :
    (ControlInv searching ∧ SearchInv searching ∧ ∃ t, step searching = .next t) ∧
    ControlInv firstDone ∧ SearchInv firstDone ∧ ∃ t, step firstDone = .next t :=
  ⟨⟨control_searching, search_searching, _, rfl⟩, control_firstDone, search_firstDone, _, rfl⟩

theorem witness_StepKeepsCandInv :
    ControlInv searching ∧ CandInv searching ∧ ∃ t, step searching = .next t :=
  ⟨control_searching, cand_searching, _, rfl⟩

theorem witness_StepKeepsMinimalInv :
    (ControlInv searching ∧ SearchInv searching ∧ MinimalInv searching ∧
      ∃ t, step searching = .next t) ∧
    ControlInv firstDone ∧ SearchInv firstDone ∧ MinimalInv firstDone ∧
      ∃ t, step firstDone = .next t :=
  ⟨⟨control_searching, search_searching, minimal_searching, _, rfl⟩, control_firstDone,
    search_firstDone, minimal_firstDone, _, rfl⟩

theorem witness_StepKeepsSinkInv :
    (ControlInv sending ∧ SinkInv sending ∧ ∃ t, step sending = .next t) ∧
    ControlInv sendingLast ∧ SinkInv sendingLast ∧ ∃ t, step sendingLast = .next t :=
  ⟨⟨control_sending 0 0 [] (by decide), sink_sending, _, rfl⟩,
    control_sending 4095 2 _ (by decide), sink_sendingLast, _, rfl⟩

theorem witness_ResetMeetsInvariants : ∃ s, s = { State.reset with
    cfg := { gRom := gAlt, wMax := 4 }, inputs := [.run], answers := [.ok], found := 1 } :=
  ⟨_, rfl⟩

theorem witness_CommitMeansWholeArtifact :
    ControlInv sendingLast ∧ SinkInv sendingLast ∧ sendingLast.runState = .busy ∧
    sendingLast.phase = .serial ∧
    sequencerStep sendingLast = .next (serialStep sendingLast) ∧ (serialStep sendingLast).runState = .idle :=
  ⟨control_sending 4095 2 _ (by decide), sink_sendingLast, rfl, rfl, rfl, rfl⟩

theorem witness_RecordedLeadersAreCosetLeaders :
    SearchInv firstDone ∧ MinimalInv firstDone ∧ SearchBegun firstDone ∧
    foundAt firstDone 0 = true :=
  ⟨search_firstDone, minimal_firstDone, .inl rfl, by decide +kernel⟩

/-- CodewordsHaveZeroSyndrome, KernelIsTheCode and StandardFormHasFullRank: two generators in standard
form, one with a P that is not symmetric. -/
theorem witness_StandardForm : StandardForm Config.gDef ∧ StandardForm gAlt := by
  refine ⟨standardForm_gDef, ?_⟩
  intro r hr
  interval_cases r <;> decide

theorem witness_PatternHasItsPositions :
    ValidComb 4 #v[0, 21, 22, 23, 0, 0] ∧ ValidComb 0 #v[0, 0, 0, 0, 0, 0] ∧
    ValidComb 6 #v[18, 19, 20, 21, 22, 23] := by
  refine ⟨?_, ?_, ?_⟩ <;> simp only [ValidComb] <;> decide

theorem witness_EnumerationIsLexicographic :
    (ValidComb 4 #v[0, 21, 22, 23, 0, 0] ∧
      nextComb 4 #v[0, 21, 22, 23, 0, 0] = some #v[1, 2, 3, 4, 0, 0]) ∧
    ValidComb 6 #v[18, 19, 20, 21, 22, 23] ∧ nextComb 6 #v[18, 19, 20, 21, 22, 23] = none := by
  refine ⟨⟨?_, by decide⟩, ?_, by decide⟩ <;> simp only [ValidComb] <;> decide

end Sys2Proof.Tests
end

section
/-! SUPPORT. The register port (spec 10_state.md, section 5): the fields of a packed word, what each
register number reads as, and that no step changes the configuration. -/

namespace Sys2Proof.Machine

/-! ## The fields of a packed word -/

/-- A field that fits is read back at its own bits. -/
theorem extractLsb'_field_same {n : Nat} (v : BitVec n) (lo : Nat) (h : lo + n ≤ 32) :
    (field v lo).extractLsb' lo n = v := by
  ext i hi
  have hlt : lo + i < 32 := by omega
  simp [field, hlt, BitVec.getLsbD_eq_getElem, hi]

/-- A field is 0 at bits that all lie above or all lie below it. -/
theorem extractLsb'_field_disjoint {n : Nat} (v : BitVec n) (lo a m : Nat)
    (h : a + m ≤ lo ∨ lo + n ≤ a) : (field v lo).extractLsb' a m = 0 := by
  ext i hi
  rcases h with hbelow | habove
  · have hlt : a + i < lo := by omega
    simp [field, hlt]
  · have hge : n ≤ a + i - lo := by omega
    simp [field, BitVec.getLsbD_shiftLeft, BitVec.getLsbD_of_ge _ _ hge]

/-! ## What each register number reads as -/

section Reads

variable (s : State)

@[simp] theorem hostRead_cmd : hostRead s 0#6 = 0 := rfl
@[simp] theorem hostRead_status : hostRead s 1#6 = status s := rfl
@[simp] theorem hostRead_errInfo : hostRead s 2#6 = s.errInfo := rfl
@[simp] theorem hostRead_eReg : hostRead s 3#6 = s.eReg.setWidth 32 := rfl
@[simp] theorem hostRead_sReg : hostRead s 4#6 = s.sReg.setWidth 32 := rfl
@[simp] theorem hostRead_count : hostRead s 5#6 = s.count.setWidth 32 := rfl
@[simp] theorem hostRead_cand : hostRead s 6#6 = s.cand.setWidth 32 := rfl
@[simp] theorem hostRead_pos : hostRead s 7#6 = posWord s := rfl
@[simp] theorem hostRead_idxr : hostRead s 8#6 = idxrWord s := rfl
@[simp] theorem hostRead_config : hostRead s 9#6 = BitVec.ofNat 32 s.cfg.wMax.val := rfl

/-- Registers 0x10 to 0x1B are the rows of G (R45). -/
theorem hostRead_gRow (i : Nat) (h : i < 12) :
    hostRead s (BitVec.ofNat 6 (0x10 + i)) = (s.cfg.gRom[i]).setWidth 32 := by
  rw [← rowAt_eq s.cfg.gRom i h]
  interval_cases i <;> rfl

/-- Registers 0x20 to 0x2B are the rows of H (R45). -/
theorem hostRead_hRow (i : Nat) (h : i < 12) :
    hostRead s (BitVec.ofNat 6 (0x20 + i)) = (s.hRows[i]).setWidth 32 := by
  rw [← rowAt_eq s.hRows i h]
  interval_cases i <;> rfl

/-- A register number outside the map reads 0 (R45). -/
theorem hostRead_unmapped (ra : BitVec 6) (h : (0x0A ≤ ra.toNat ∧ ra.toNat ≤ 0x0F) ∨
    (0x1C ≤ ra.toNat ∧ ra.toNat ≤ 0x1F) ∨ 0x2C ≤ ra.toNat) : hostRead s ra = 0 := by
  have hlow (n : BitVec 6) (hn : n.toNat ≤ 0x09) : ra ≠ n := by
    rintro rfl
    omega
  have hg : ¬ (0x10 ≤ ra.toNat ∧ ra.toNat ≤ 0x1B) := by omega
  have hh : ¬ (0x20 ≤ ra.toNat ∧ ra.toNat ≤ 0x2B) := by omega
  simp [hostRead, hlow, hg, hh]

end Reads

/-! ## The writes of the port -/

/-- A write to a register other than CMD changes nothing (R36). -/
theorem hostWrite_of_ne_zero {ra : BitVec 6} (h : ra ≠ 0) (v : Word) (s : State) :
    hostWrite ra v s = .next s := if_neg h

/-- A legal word written to CMD is a command write (30_encoding.md R97). -/
theorem hostWrite_zero_of_ok {v : Word} {i : Instr} (h : decode v = .ok i) (s : State) :
    hostWrite 0 v s = exec i s := by
  simp [hostWrite, h]

/-- An illegal word written to CMD is rejected (30_encoding.md R94). -/
theorem hostWrite_zero_of_error {v : Word} {r : IllegalWord} (h : decode v = .error r) (s : State) :
    hostWrite 0 v s = .next (reject s) := by
  simp [hostWrite, h]

/-! ## The configuration is constant -/

@[simp] theorem furtherEffect_cfg (i : Instr) (s : State) : (furtherEffect i s).cfg = s.cfg := by
  cases i <;> rfl

theorem exec_cfg {i : Instr} {s t : State} (h : exec i s = .next t) : t.cfg = s.cfg := by
  obtain ⟨-, -, rfl⟩ | ⟨-, rfl⟩ := exec_cases h
  · simp
  · rfl

theorem hostWrite_cfg {ra : BitVec 6} {v : Word} {s t : State}
    (h : hostWrite ra v s = .next t) : t.cfg = s.cfg := by
  obtain ⟨-, rfl⟩ | ⟨-, -, -, rfl⟩ | ⟨-, i, -, hexec⟩ := hostWrite_cases h
  · rfl
  · rfl
  · exact exec_cfg hexec

@[simp] theorem complete_cfg (s : State) : (complete s).cfg = s.cfg := by
  obtain ⟨-, -, h⟩ | ⟨-, -, h⟩ | ⟨-, h⟩ := complete_cases s <;> simp [h]

@[simp] theorem initStep_cfg (s : State) : (initStep s).cfg = s.cfg := by
  unfold initStep
  split <;> simp

@[simp] theorem syndStep_cfg (s : State) : (syndStep s).cfg = s.cfg := complete_cfg _

@[simp] theorem rdrowStep_cfg (s : State) : (rdrowStep s).cfg = s.cfg := complete_cfg _

@[simp] theorem nopStep_cfg (s : State) : (nopStep s).cfg = s.cfg := complete_cfg s

@[simp] theorem examine_cfg (s : State) : (examine s).cfg = s.cfg := by
  obtain ⟨-, h⟩ | ⟨-, h⟩ := examine_cases s <;> simp [h]

@[simp] theorem advance_cfg (s : State) : (advance s).cfg = s.cfg := by
  obtain ⟨-, h⟩ | ⟨-, idx, -, h⟩ | ⟨-, -, -, h⟩ | ⟨-, -, -, h⟩ := advance_cases s <;> simp [h]

@[simp] theorem searchStep_cfg (s : State) : (searchStep s).cfg = s.cfg := by
  simp [searchStep]

@[simp] theorem serialOk_cfg (s : State) : (serialOk s).cfg = s.cfg := by
  unfold serialOk
  split
  · simp
  · split <;> rfl

@[simp] theorem serialStep_cfg (s : State) : (serialStep s).cfg = s.cfg := by
  unfold serialStep
  split <;> simp

theorem sequencerStep_cfg {s t : State} (h : sequencerStep s = .next t) : t.cfg = s.cfg := by
  obtain ⟨-, rfl⟩ | ⟨-, hphase⟩ := sequencerStep_cases h
  · rfl
  · obtain ⟨-, rfl⟩ | ⟨-, rfl⟩ | ⟨-, rfl⟩ | ⟨-, rfl⟩ | ⟨-, rfl⟩ | ⟨-, rfl⟩ := hphase <;> simp

@[simp] theorem platformReset_cfg (taken : Bool) (s : State) :
    (platformReset taken s).cfg = s.cfg := by
  obtain ⟨out, h, -⟩ := platformReset_eq taken s
  simp [h]

/-- No step, a reset included, changes the constants of the build (R20, R44). -/
theorem step_cfg {s t : State} (h : step s = .next t) : t.cfg = s.cfg := by
  obtain ⟨-, hseq⟩ | ⟨ra, v, rest, -, hwrite⟩ | ⟨ra, rest, -, rfl⟩ | ⟨rest, -, hseq⟩ |
    ⟨rest, -, -, hseq⟩ | ⟨rest, -, -, rfl⟩ | ⟨taken, rest, -, rfl⟩ := step_cases h
  · exact sequencerStep_cfg hseq
  · exact (hostWrite_cfg hwrite :)
  · rfl
  · exact (sequencerStep_cfg hseq :)
  · exact sequencerStep_cfg hseq
  · rfl
  · simp

/-! ## The fields of POS, IDXR and CONFIG -/

/-- POS holds PHASE, W, ROW and BYTE at their bits, and 0 above them (R42). -/
theorem posWord_fields (s : State) :
    (posWord s).extractLsb' 0 3 = s.phase.bits ∧ (posWord s).extractLsb' 3 3 = s.w ∧
      (posWord s).extractLsb' 6 12 = s.row ∧ (posWord s).extractLsb' 18 2 = s.byte ∧
      (posWord s).extractLsb' 20 12 = 0 := by
  refine ⟨?_, ?_, ?_, ?_, ?_⟩ <;>
    simp [posWord, BitVec.extractLsb'_or, extractLsb'_field_same, extractLsb'_field_disjoint]

/-- IDXR holds `IDX[k]` at bits `5k+4 : 5k` (R43). -/
theorem idxrWord_index (s : State) (k : Nat) (h : k < 6) :
    (idxrWord s).extractLsb' (5 * k) 5 = s.idx[k] := by
  interval_cases k <;>
    simp [idxrWord, BitVec.extractLsb'_or, extractLsb'_field_same, extractLsb'_field_disjoint]

/-- The two top bits of IDXR are 0 (R43). -/
theorem idxrWord_top (s : State) : (idxrWord s).extractLsb' 30 2 = 0 := by
  simp [idxrWord, BitVec.extractLsb'_or, extractLsb'_field_disjoint]

/-- CONFIG is `W_MAX` as one field of three bits (R44). -/
theorem config_eq_field (wMax : Fin 7) :
    BitVec.ofNat 32 wMax.val = field (BitVec.ofNat 3 wMax.val) 0 := by
  revert wMax
  decide

/-- CONFIG holds `W_MAX` in bits 2:0, and 0 above them (R44). -/
theorem config_fields (wMax : Fin 7) :
    ((BitVec.ofNat 32 wMax.val).extractLsb' 0 3).toNat = wMax.val ∧
      (BitVec.ofNat 32 wMax.val).extractLsb' 3 29 = 0 := by
  rw [config_eq_field, extractLsb'_field_same _ _ (by decide)]
  exact ⟨Nat.mod_eq_of_lt (by omega), extractLsb'_field_disjoint _ _ _ _ (by decide)⟩

end Sys2Proof.Machine
end

section
/-! PROOFS. The obligations about the register port and its packed registers. -/

namespace Sys2Proof

open Sys2Proof.Machine

/-- Settles O10: the map is read register by register, the numbers outside it fall through every
branch of the read, and a write has an effect at register 0 alone. -/
theorem registerPort : Obligations.RegisterPort := by
  have hext {n : Nat} (v : BitVec n) (h : n ≤ 32) : (v.setWidth 32).toNat = v.toNat :=
    BitVec.toNat_setWidth_of_le h
  refine ⟨fun s => ⟨hostRead_cmd s, hostRead_status s, hostRead_errInfo s, ?_, ?_, ?_, ?_,
    hostRead_pos s, hostRead_idxr s, ?_⟩, fun s i h => ⟨?_, ?_⟩, hostRead_unmapped, fun _ _ => rfl,
    fun s ra v h => hostWrite_of_ne_zero h v s, fun s v => ?_⟩
  · exact hext s.eReg (by decide)
  · exact hext s.sReg (by decide)
  · exact hext s.count (by decide)
  · exact hext s.cand (by decide)
  · exact Nat.mod_eq_of_lt (by omega)
  · rw [hostRead_gRow s i h]
    exact hext _ (by decide)
  · rw [hostRead_hRow s i h]
    exact hext _ (by decide)
  · cases hd : decode v with
    | ok i => exact hostWrite_zero_of_ok hd s
    | error r => exact hostWrite_zero_of_error hd s

/-- Settles O12: each register is an OR of disjoint fields, and CONFIG depends on the constants of
the build alone. -/
theorem positionRegisterFields : Obligations.PositionRegisterFields := by
  intro s
  obtain ⟨hphase, hw, hrow, hbyte, hhigh⟩ := posWord_fields s
  obtain ⟨hmax, hzero⟩ := config_fields s.cfg.wMax
  refine ⟨hphase.trans ?_, hw, hrow, hbyte, hhigh, idxrWord_index s, idxrWord_top s, hmax, hzero,
    fun t h => ?_⟩
  · cases s.phase <;> rfl
  · simp [step_cfg h]

end Sys2Proof
end

section
/-! SUPPORT. The memories (spec 20_memory.md): what one SEARCH step records and what it leaves (R66,
42_coset_leader_search.md R164, R165), and where the artifact holds each byte of a row (R61, R200). -/

namespace Sys2Proof.Machine

/-! ## The two halves of the SEARCH step -/

/-- In the SEARCH phase `complete()` hands over to the serializer or ends the command; it begins no
second search, which would clear FOUND (R224). -/
theorem complete_of_search {s : State} (h : s.phase = .search) :
    complete s = serialBegin s ∨ complete s = toIdle s := by
  obtain ⟨-, hinit, -⟩ | ⟨-, -, hserial⟩ | ⟨-, hidle⟩ := complete_cases s
  · simp [h] at hinit
  · exact .inl hserial
  · exact .inr hidle

/-- The second half of a SEARCH step moves the sequencer only: H, E, S, the table with its two
counters, the reset count and OUT stay. -/
theorem advance_frame {s : State} (h : s.phase = .search) :
    (advance s).hRows = s.hRows ∧ (advance s).eReg = s.eReg ∧ (advance s).sReg = s.sReg ∧
      (advance s).leader = s.leader ∧ (advance s).found = s.found ∧ (advance s).count = s.count ∧
      (advance s).cand = s.cand ∧ (advance s).out = s.out ∧ (advance s).resets = s.resets := by
  obtain ⟨-, hadv⟩ | ⟨-, idx, -, hadv⟩ | ⟨-, -, -, hadv⟩ | ⟨-, -, -, hadv⟩ := advance_cases s
  · obtain hend | hend := complete_of_search (s := { s with tableValid := true }) h <;>
      simp [hadv, hend]
  all_goals simp [hadv]

/-- The first half of a SEARCH step counts the candidate and touches the table only. -/
theorem examine_frame (s : State) :
    (examine s).cand = s.cand + 1 ∧ (examine s).phase = s.phase ∧ (examine s).hRows = s.hRows ∧
      (examine s).eReg = s.eReg ∧ (examine s).sReg = s.sReg ∧ (examine s).out = s.out := by
  obtain ⟨-, h⟩ | ⟨-, h⟩ := examine_cases s <;> simp [h]

/-- A candidate whose syndrome was found changes CAND alone (R165). -/
theorem examine_of_found {s : State} (h : foundAt s (syndrome s.hRows (pattern s.w s.idx)) = true) :
    examine s = { s with cand := s.cand + 1 } := by
  obtain ⟨-, hex⟩ | ⟨hnew, -⟩ := examine_cases s
  · exact hex
  · simp [h] at hnew

/-- A candidate whose syndrome was not found is counted and recorded (R165). -/
theorem examine_of_not_found {s : State}
    (h : foundAt s (syndrome s.hRows (pattern s.w s.idx)) = false) :
    examine s = recordLeader (syndrome s.hRows (pattern s.w s.idx)) (pattern s.w s.idx)
      { s with cand := s.cand + 1 } := by
  obtain ⟨hold, -⟩ | ⟨-, hex⟩ := examine_cases s
  · simp [h] at hold
  · exact hex

/-- The examination leaves the FOUND bit and the LEADER cell of every other syndrome alone (R66). -/
theorem examine_other (s : State) {b : Syndrome}
    (hb : b ≠ syndrome s.hRows (pattern s.w s.idx)) :
    foundAt (examine s) b = foundAt s b ∧ leaderAt (examine s) b = leaderAt s b := by
  obtain ⟨-, hex⟩ | ⟨-, hex⟩ := examine_cases s
  · rw [hex]
    exact ⟨rfl, rfl⟩
  · rw [hex, foundAt_recordLeader, leaderAt_recordLeader_other _ _ _ _ hb]
    simp [hb, foundAt, leaderAt]

/-- In the SEARCH phase the sequencer's turn is a SEARCH step (R226). -/
theorem sequencerStep_of_search {s : State} (hbusy : s.runState = .busy)
    (hphase : s.phase = .search) :
    sequencerStep s = .next (searchStep s) := by
  simp [sequencerStep, hbusy, hphase]

/-! ## The bytes of the artifact -/

theorem artifact_length (s : State) : (artifact s).length = 12288 := by
  simp [artifact, artifactPrefix]

/-- Byte `3*a + k` of the artifact is byte k of row a (R61, R200). -/
theorem artifact_getElem? (s : State) (a : Syndrome) {k : Nat} (hk : k < 3) :
    (artifact s)[3 * a.toNat + k]? = some ((leaderAt s a).extractLsb' (8 * k) 8) := by
  have hlt : 3 * a.toNat + k < 12288 := by omega
  have hrow : (3 * a.toNat + k) / 3 = a.toNat := by omega
  have hbyte : (3 * a.toNat + k) % 3 = k := by omega
  have hk4 : k % 4 = k := by omega
  simp [artifact, artifactPrefix, byteOf, hlt, hrow, hbyte, hk4]

end Sys2Proof.Machine
end

section
/-! PROOFS. The obligations about the memories. -/

namespace Sys2Proof

open Sys2Proof.Machine

/-- Settles O24: the first half of the step records or does not, by the candidate's FOUND bit, and the
second half leaves the table alone. -/
theorem firstSeenCandidateWins : Obligations.FirstSeenCandidateWins := by
  intro s hbusy hphase
  obtain ⟨hcandE, hphaseE, hHE, heE, hsE, houtE⟩ := examine_frame s
  obtain ⟨hH, he, hs, hleader, hfound, hcount, hcand, hout, hresets⟩ :=
    advance_frame (hphaseE.trans hphase)
  have hfoundAt (b : Syndrome) : foundAt (searchStep s) b = foundAt (examine s) b :=
    foundAt_congr hfound b
  have hleaderAt (b : Syndrome) : leaderAt (searchStep s) b = leaderAt (examine s) b :=
    leaderAt_congr hleader hresets b
  refine ⟨searchStep s, sequencerStep_of_search hbusy hphase, hcand.trans hcandE, ?_,
    hH.trans hHE, he.trans heE, hs.trans hsE, hout.trans houtE⟩
  rintro a rfl
  refine ⟨fun hold => ?_, fun hnew => ?_, fun b hb => ?_⟩
  · have hex := examine_of_found hold
    exact ⟨hleader.trans (by rw [hex]), hfound.trans (by rw [hex]), hcount.trans (by rw [hex])⟩
  · have hex := examine_of_not_found hnew
    refine ⟨?_, ?_, hcount.trans (by rw [hex, recordLeader_count])⟩
    · rw [hfoundAt, hex, foundAt_recordLeader]
      simp
    · rw [hleaderAt, hex, leaderAt_recordLeader_same]
  · rw [hfoundAt, hleaderAt]
    exact examine_other s hb

/-- Settles O59: the list is indexed by `3*a + k`, and bit `j mod 8` of byte `j/8` of a row is its bit
`8*(j/8) + j mod 8 = j`. -/
theorem artifactLayout : Obligations.ArtifactLayout := by
  refine fun s => ⟨artifact_length s, fun a k hk => artifact_getElem? s a hk, fun a j hj => ?_⟩
  have hbyte : j / 8 < 3 := by omega
  have hbit : j % 8 < 8 := by omega
  rw [artifact_getElem? s a hbyte, Option.getD_some, BitVec.getLsbD_extractLsb', Nat.div_add_mod]
  simp [hbit]

end Sys2Proof
end

section
/-! SUPPORT. The command words (spec 30_encoding.md): a word is its three fields (R90), the legal words
are exactly the encodings of the commands, and when a word is illegal (R91, R94). -/

namespace Sys2Proof

open Sys2Proof.Machine

/-! ## The fields of a word -/

@[simp] theorem opcField_encode (i : Instr) : opcField (encode i) = i.opcode.bits := by
  simp [encode, opcField, BitVec.extractLsb'_or, extractLsb'_field_same, extractLsb'_field_disjoint]

@[simp] theorem rsvField_encode (i : Instr) : rsvField (encode i) = 0 := by
  simp [encode, rsvField, BitVec.extractLsb'_or, extractLsb'_field_disjoint]

@[simp] theorem immField_encode (i : Instr) : immField (encode i) = i.imm := by
  simp [encode, immField, BitVec.extractLsb'_or, extractLsb'_field_same, extractLsb'_field_disjoint]

/-- IMM needs no shift, so a word is its opcode beside its operand (R90). -/
theorem encode_eq (i : Instr) : encode i = field i.opcode.bits 28 ||| i.imm.setWidth 32 := by
  rw [encode, field, field, BitVec.shiftLeft_zero]

/-- The word of SYND is its match with the operand in IMM (R92, R93). -/
theorem encode_synd (e : Pattern) : encode (.synd e) = 0x20000000#32 ||| e.setWidth 32 := by
  have hmatch : field Opcode.synd.bits 28 = 0x20000000#32 := by decide
  rw [encode_eq, Instr.opcode, Instr.imm, hmatch]

/-- The word of RDROW is its match with the operand in IMM[11:0] (R92, R93). -/
theorem encode_rdrow (a : Syndrome) : encode (.rdrow a) = 0x40000000#32 ||| a.setWidth 32 := by
  have hmatch : field Opcode.rdrow.bits 28 = 0x40000000#32 := by decide
  rw [encode_eq, Instr.opcode, Instr.imm, hmatch, BitVec.setWidth_setWidth (by decide)]

/-- OPC, RSV and IMM together are the whole word (R90). -/
theorem word_eq_iff_fields {v w : Word} :
    v = w ↔ opcField v = opcField w ∧ rsvField v = rsvField w ∧ immField v = immField w := by
  have append_fields (x : Word) : (opcField x ++ rsvField x) ++ immField x = x := by
    rw [opcField, rsvField, immField, BitVec.extractLsb'_append_extractLsb'_eq_extractLsb' (by rfl),
      BitVec.extractLsb'_append_extractLsb'_eq_extractLsb' (by rfl)]
    exact BitVec.extractLsb'_eq_self
  constructor
  · rintro rfl
    exact ⟨rfl, rfl, rfl⟩
  · rintro ⟨hopc, hrsv, himm⟩
    rw [← append_fields v, ← append_fields w, hopc, hrsv, himm]

/-- A word is a command's word when its fields are the command's (R90, R92). -/
theorem eq_encode_iff {w : Word} {i : Instr} :
    w = encode i ↔ opcField w = i.opcode.bits ∧ rsvField w = 0 ∧ immField w = i.imm := by
  rw [word_eq_iff_fields, opcField_encode, rsvField_encode, immField_encode]

/-- A word under a row's mask is the row's match when OPC is the row's, RSV is 0 and so is each
must-be-zero bit of IMM (R93). -/
theorem masked_eq_fixedBits_iff {w : Word} {op : Opcode} : w &&& op.fixedMask = op.fixedBits ↔
    opcField w = op.bits ∧ rsvField w = 0 ∧ immField w &&& immField op.fixedMask = 0 := by
  have hopc (v : Word) : opcField (v &&& op.fixedMask) = opcField v := by
    have hmask : opcField op.fixedMask = BitVec.allOnes 4 := by cases op <;> rfl
    rw [opcField, BitVec.extractLsb'_and, ← opcField, ← opcField, hmask, BitVec.and_allOnes]
  have hrsv (v : Word) : rsvField (v &&& op.fixedMask) = rsvField v := by
    have hmask : rsvField op.fixedMask = BitVec.allOnes 4 := by cases op <;> rfl
    rw [rsvField, BitVec.extractLsb'_and, ← rsvField, ← rsvField, hmask, BitVec.and_allOnes]
  have himm (v : Word) : immField (v &&& op.fixedMask) = immField v &&& immField op.fixedMask :=
    BitVec.extractLsb'_and
  have hbits : opcField op.fixedBits = op.bits ∧ rsvField op.fixedBits = 0 ∧
      immField op.fixedBits = 0 := by
    cases op <;> decide
  obtain ⟨hopcBits, hrsvBits, himmBits⟩ := hbits
  rw [word_eq_iff_fields, hopc, hrsv, himm, hopcBits, hrsvBits, himmBits]

/-! ## The immediates of a format -/

/-- A 24-bit value is its two halves. -/
theorem imm_eq_iff_halves {v w : BitVec 24} :
    v = w ↔ v.extractLsb' 12 12 = w.extractLsb' 12 12 ∧ v.extractLsb' 0 12 = w.extractLsb' 0 12 := by
  have append_halves (x : BitVec 24) : x.extractLsb' 12 12 ++ x.extractLsb' 0 12 = x := by
    rw [BitVec.extractLsb'_append_extractLsb'_eq_extractLsb' (by rfl)]
    exact BitVec.extractLsb'_eq_self
  constructor
  · rintro rfl
    exact ⟨rfl, rfl⟩
  · rintro ⟨hupper, hlower⟩
    rw [← append_halves v, ← append_halves w, hupper, hlower]

@[simp] theorem upper_setWidth (a : BitVec 12) : (a.setWidth 24).extractLsb' 12 12 = 0 := by
  ext j hj
  simp

@[simp] theorem lower_setWidth (a : BitVec 12) : (a.setWidth 24).extractLsb' 0 12 = a := by
  ext j hj
  have hj24 : j < 24 := by omega
  simp [hj24, BitVec.getLsbD_eq_getElem hj]

/-- A 24-bit value whose upper half is 0 is a 12-bit value (R91, R92). -/
theorem upper_eq_zero_iff {imm : BitVec 24} :
    imm.extractLsb' 12 12 = 0 ↔ imm = (imm.extractLsb' 0 12).setWidth 24 := by
  simp [imm_eq_iff_halves]

/-- Format I24 has no must-be-zero bit (R91). -/
theorem masked_imm_synd (imm : BitVec 24) : imm &&& immField Opcode.synd.fixedMask = 0 :=
  BitVec.and_zero

/-- Format I12's must-be-zero bits are the upper half of IMM (R91). -/
theorem masked_imm_rdrow_iff {imm : BitVec 24} :
    imm &&& immField Opcode.rdrow.fixedMask = 0 ↔ imm.extractLsb' 12 12 = 0 := by
  have hupper : (immField Opcode.rdrow.fixedMask).extractLsb' 12 12 = BitVec.allOnes 12 := rfl
  have hlower : (immField Opcode.rdrow.fixedMask).extractLsb' 0 12 = 0#12 := rfl
  rw [imm_eq_iff_halves, BitVec.extractLsb'_and, BitVec.extractLsb'_and, hupper, hlower,
    BitVec.and_allOnes, BitVec.and_zero]
  exact and_iff_left rfl

/-- Format Z's must-be-zero bits are the whole of IMM (R91). -/
theorem masked_imm_iff_of_formatZ {op : Opcode} {imm : BitVec 24} (hsynd : op ≠ .synd)
    (hrdrow : op ≠ .rdrow) : imm &&& immField op.fixedMask = 0 ↔ imm = 0 := by
  have hmask : immField op.fixedMask = BitVec.allOnes 24 := by
    cases op
    case synd => exact absurd rfl hsynd
    case rdrow => exact absurd rfl hrdrow
    all_goals rfl
  rw [hmask, BitVec.and_allOnes]

/-! ## Decode and encode -/

/-- The opcode numbers (R93). -/
theorem ofBits_eq_some_iff {b : BitVec 4} {op : Opcode} : Opcode.ofBits b = some op ↔ b = op.bits := by
  revert b
  cases op <;> decide

theorem bits_injective : Function.Injective Opcode.bits := fun _ _ h =>
  Option.some.inj ((ofBits_eq_some_iff.mpr rfl).symm.trans (ofBits_eq_some_iff.mpr h))

/-- The numbers 7 to 15 are reserved (R95). -/
theorem ofBits_eq_none_iff {b : BitVec 4} : Opcode.ofBits b = none ↔ 7 ≤ b.toNat := by
  revert b
  decide

theorem decodeZ_eq_ok_iff {imm : BitVec 24} {i j : Instr} :
    decodeZ imm i = .ok j ↔ i = j ∧ imm = 0 := by
  unfold decodeZ
  split <;> simp_all

theorem decodeI12_eq_ok_iff {imm : BitVec 24} {f : BitVec 12 → Instr} {j : Instr} :
    decodeI12 imm f = .ok j ↔ ∃ a : BitVec 12, f a = j ∧ imm = a.setWidth 24 := by
  unfold decodeI12
  split
  · rename_i hupper
    rw [upper_eq_zero_iff] at hupper
    simp only [Except.ok.injEq]
    constructor
    · rintro rfl
      exact ⟨_, rfl, hupper⟩
    · rintro ⟨a, rfl, rfl⟩
      rw [lower_setWidth]
  · rename_i hupper
    simp only [reduceCtorEq, false_iff]
    rintro ⟨a, -, rfl⟩
    exact hupper (upper_setWidth a)

/-- A word that decodes has the fields of the command it decodes to. -/
theorem fields_of_decode {w : Word} {i : Instr} (h : decode w = .ok i) :
    opcField w = i.opcode.bits ∧ rsvField w = 0 ∧ immField w = i.imm := by
  unfold decode at h
  split at h
  · cases h
  · rename_i op hop
    rw [ofBits_eq_some_iff] at hop
    split at h
    · rename_i hrsv
      cases op
      case synd =>
        cases h
        exact ⟨hop, hrsv, rfl⟩
      case rdrow =>
        obtain ⟨a, rfl, himm⟩ := decodeI12_eq_ok_iff.mp h
        exact ⟨hop, hrsv, himm⟩
      all_goals
        obtain ⟨rfl, himm⟩ := decodeZ_eq_ok_iff.mp h
        exact ⟨hop, hrsv, himm⟩
    · cases h

theorem decode_encode (i : Instr) : decode (encode i) = .ok i := by
  have hop : Opcode.ofBits i.opcode.bits = some i.opcode := ofBits_eq_some_iff.mpr rfl
  simp only [decode, opcField_encode, rsvField_encode, immField_encode, hop, if_true]
  cases i
  case rdrow a => exact decodeI12_eq_ok_iff.mpr ⟨a, rfl, rfl⟩
  all_goals rfl

/-- The legal words are the encodings of the commands. -/
theorem decode_eq_ok_iff {w : Word} {i : Instr} : decode w = .ok i ↔ w = encode i := by
  constructor
  · intro h
    exact eq_encode_iff.mpr (fields_of_decode h)
  · rintro rfl
    exact decode_encode i

theorem encode_injective : Function.Injective encode := by
  intro i j h
  rw [← decode_eq_ok_iff, decode_encode] at h
  exact Except.ok.inj h

/-! ## Which words a row of the opcode map selects -/

/-- The family MatchMask, for every command. -/
theorem encode_and_fixedMask (i : Instr) : encode i &&& i.opcode.fixedMask = i.opcode.fixedBits := by
  cases i
  case nop => exact Laws.MatchMask.nop
  case init => exact Laws.MatchMask.init
  case synd e => exact Laws.MatchMask.synd e
  case build => exact Laws.MatchMask.build
  case rdrow a => exact Laws.MatchMask.rdrow a
  case ser => exact Laws.MatchMask.ser
  case run => exact Laws.MatchMask.run

/-- Every opcode has a command with a given IMM whose must-be-zero bits are 0 (R91, R92). -/
theorem exists_instr_of_masked_imm {op : Opcode} {imm : BitVec 24}
    (h : imm &&& immField op.fixedMask = 0) : ∃ i : Instr, i.opcode = op ∧ i.imm = imm := by
  cases op
  case synd => exact ⟨.synd imm, rfl, rfl⟩
  case rdrow =>
    rw [masked_imm_rdrow_iff, upper_eq_zero_iff] at h
    exact ⟨.rdrow (imm.extractLsb' 0 12), rfl, h.symm⟩
  all_goals rw [masked_imm_iff_of_formatZ (by decide) (by decide)] at h
  case nop => exact ⟨.nop, rfl, h.symm⟩
  case init => exact ⟨.init, rfl, h.symm⟩
  case build => exact ⟨.build, rfl, h.symm⟩
  case ser => exact ⟨.ser, rfl, h.symm⟩
  case run => exact ⟨.run, rfl, h.symm⟩

/-- A word is a command of an opcode exactly when its masked bits are the row's match (R93). -/
theorem exists_decode_iff_masked {w : Word} {op : Opcode} :
    (∃ i, decode w = .ok i ∧ i.opcode = op) ↔ w &&& op.fixedMask = op.fixedBits := by
  constructor
  · rintro ⟨i, hi, rfl⟩
    rw [decode_eq_ok_iff.mp hi]
    exact encode_and_fixedMask i
  · intro h
    obtain ⟨hopc, hrsv, himm⟩ := masked_eq_fixedBits_iff.mp h
    obtain ⟨i, rfl, hi⟩ := exists_instr_of_masked_imm himm
    exact ⟨i, decode_eq_ok_iff.mpr (eq_encode_iff.mpr ⟨hopc, hrsv, hi.symm⟩), rfl⟩

/-! ## Which words are illegal -/

/-- A word with a reserved opcode is illegal (R94, R95). -/
theorem decode_reserved {w : Word} (h : 7 ≤ (opcField w).toNat) :
    decode w = .error .reservedOpcode := by
  simp [decode, ofBits_eq_none_iff.mpr h]

/-- A word whose OPC is an opcode's number is illegal by its other bits (R94). -/
theorem illegal_iff_of_opcField {w : Word} {op : Opcode} (hop : opcField w = op.bits) :
    (∃ r, decode w = .error r) ↔ rsvField w ≠ 0 ∨ immField w &&& immField op.fixedMask ≠ 0 := by
  have hlegal : (∃ i, decode w = .ok i ∧ i.opcode = op) ↔
      rsvField w = 0 ∧ immField w &&& immField op.fixedMask = 0 := by
    rw [exists_decode_iff_masked, masked_eq_fixedBits_iff]
    exact and_iff_right hop
  rw [ne_eq, ne_eq, ← not_and_or, ← hlegal]
  cases hd : decode w with
  | ok i =>
    obtain ⟨hopc, -, -⟩ := fields_of_decode hd
    simp [bits_injective (hopc.symm.trans hop)]
  | error r => simp

/-! ## Counting the words of a command -/

/-- A family of commands that is one-to-one in its operand has one word for each operand. -/
theorem ncard_words {n : Nat} {f : BitVec n → Instr} (hf : Function.Injective f) :
    Set.ncard {w : Word | ∃ a, decode w = .ok (f a)} = 2 ^ n := by
  have hrange : {w : Word | ∃ a, decode w = .ok (f a)} = Set.range (encode ∘ f) := by
    ext w
    exact exists_congr fun a => decode_eq_ok_iff.trans eq_comm
  rw [hrange, Set.ncard_range_of_injective (encode_injective.comp hf), Nat.card_eq_fintype_card,
    ← FinEnum.card_eq_fintypeCard, FinEnum.card_bitVec]

/-- A single command has one word. -/
theorem ncard_word (i : Instr) : Set.ncard {w : Word | decode w = .ok i} = 1 := by
  have hsingle : {w : Word | decode w = .ok i} = {encode i} := Set.ext fun _ => decode_eq_ok_iff
  rw [hsingle, Set.ncard_singleton]

end Sys2Proof
end

section
/-! SUPPORT. Accept and reject of a command (spec 30_encoding.md R97 to R100), over all seven commands
at once. -/

namespace Sys2Proof.Machine

/-- The opcode's precondition is the command's (R99). -/
theorem precond_eq_true_iff {i : Instr} {s : State} :
    precond i.opcode s = true ↔ CommandReady i s := by
  cases i <;> simp [precond, Instr.opcode, CommandReady]

/-- The accept step (R98). -/
theorem exec_accepted {i : Instr} {s : State} (hidle : s.runState = .idle)
    (hready : CommandReady i s) : exec i s = .next (furtherEffect i (acceptOp i.opcode s)) := by
  rw [exec_eq_issue]
  exact issue_accepted hidle (precond_eq_true_iff.mpr hready)

/-- A command is rejected outside IDLE or where its precondition fails (R99, R100). -/
theorem exec_rejected {i : Instr} {s : State}
    (h : s.runState ≠ .idle ∨ ¬ CommandReady i s) : exec i s = .next (reject s) := by
  rw [exec_eq_issue]
  obtain hbusy | hnot := h
  · exact issue_not_idle hbusy
  · rw [← precond_eq_true_iff, Bool.not_eq_true] at hnot
    exact issue_not_ready hnot

/-- No further effect of an accept step touches CMDREJ, OP or STATE (R98). -/
theorem furtherEffect_control (i : Instr) (s : State) : (furtherEffect i s).cmdRej = s.cmdRej ∧
    (furtherEffect i s).op = s.op ∧ (furtherEffect i s).runState = s.runState := by
  cases i <;> exact ⟨rfl, rfl, rfl⟩

end Sys2Proof.Machine
end

section
/-! PROOFS. The obligations about the encoding and about accepting a command. -/

namespace Sys2Proof

open Sys2Proof.Machine

/-- Settles O2: each row is its opcode's own mask and match. -/
theorem maskMatchSelectsCommand : Obligations.MaskMatchSelectsCommand := by
  intro w r hr
  obtain ⟨hmatch, hmask⟩ : r.2.1 = r.1.fixedBits ∧ r.2.2 = r.1.fixedMask := by
    revert r
    decide
  rw [hmatch, hmask]
  exact exists_decode_iff_masked

/-- Settles O3: a legal word is the encoding of its command, whose IMM is the operand. -/
theorem immediatesUsedAsTheyStand : Obligations.ImmediatesUsedAsTheyStand := by
  refine ⟨fun w e h => ?_, fun w a h => ?_, fun e => ?_, fun a => ?_⟩
  · obtain ⟨-, -, himm⟩ := fields_of_decode h
    exact himm.symm
  · obtain ⟨-, -, himm⟩ := fields_of_decode h
    calc a = (immField w).extractLsb' 0 12 := by rw [himm]; exact (lower_setWidth a).symm
      _ = w.extractLsb' 0 12 := by rw [immField, BitVec.extractLsb'_extractLsb'_of_le (by decide)]
  · exact decode_eq_ok_iff.mpr (encode_synd e).symm
  · exact decode_eq_ok_iff.mpr (encode_rdrow a).symm

/-- Settles O4: a reserved opcode is illegal whatever follows it, any other is judged by RSV and its
format's must-be-zero bits; the legal words are counted by their operands. -/
theorem illegalWordsAreRejected : Obligations.IllegalWordsAreRejected := by
  refine ⟨fun w => ?_, fun w r s h => hostWrite_zero_of_error h s,
    ncard_words fun _ _ => Instr.synd.inj, ncard_words fun _ _ => Instr.rdrow.inj,
    fun i _ => ncard_word i⟩
  have hupper : (immField w).extractLsb' 12 12 = w.extractLsb' 12 12 :=
    BitVec.extractLsb'_extractLsb'_of_le (by decide)
  cases hop : Opcode.ofBits (opcField w) with
  | none =>
    have hres : 7 ≤ (opcField w).toNat := ofBits_eq_none_iff.mp hop
    exact ⟨fun _ => .inl hres, fun _ => ⟨_, decode_reserved hres⟩⟩
  | some op =>
    rw [ofBits_eq_some_iff] at hop
    rw [illegal_iff_of_opcField hop, ← hupper, ← opcField, ← rsvField, ← immField, hop]
    cases op
    case synd => simp [masked_imm_synd, Opcode.bits]
    case rdrow =>
      rw [ne_eq (_ &&& _), masked_imm_rdrow_iff]
      simp [Opcode.bits]
    all_goals
      rw [ne_eq (_ &&& _), masked_imm_iff_of_formatZ (by decide) (by decide)]
      simp [Opcode.bits]

/-- Settles O8: a CMD write of a legal word is the shared command write, which asks for IDLE and the
precondition; an illegal word is rejected before it. -/
theorem commandWriteAcceptsOrRejects : Obligations.CommandWriteAcceptsOrRejects := by
  refine fun w s => ⟨fun hreject => ?_, fun i hidle hi hready => ?_⟩
  · cases hd : decode w with
    | error r => exact hostWrite_zero_of_error hd s
    | ok i =>
      rw [hostWrite_zero_of_ok hd]
      apply exec_rejected
      obtain hbusy | ⟨r, hr⟩ | ⟨j, hj, hnot⟩ := hreject
      · exact .inl hbusy
      · simp [hd] at hr
      · rw [hd] at hj
        cases hj
        exact .inr hnot
  · rw [hostWrite_zero_of_ok hi, exec_accepted hidle hready]
    exact ⟨_, rfl, furtherEffect_control i (acceptOp i.opcode s)⟩

/-- Settles O9: each clause is the accept step with the command's own further effect. -/
theorem acceptStepOfEachCommand : Obligations.AcceptStepOfEachCommand := by
  intro s hidle
  have accept (i : Instr) (h : CommandReady i s) :
      exec i s = .next (furtherEffect i (acceptOp i.opcode s)) := exec_accepted hidle h
  refine ⟨accept .nop trivial, accept .init trivial, accept .run trivial,
    fun h e => accept (.synd e) h, fun h => ⟨_, accept .build h, fun a => ?_, rfl⟩,
    fun h a => accept (.rdrow a) h, fun h => accept .ser h⟩
  exact foundAt_searchBegin _ a

end Sys2Proof
end

section
/-! SUPPORT. The algebra over GF(2) that the parity check rests on (spec
40_generator_and_parity_check.md section 3, 41_syndrome.md section 2): sums of bits, the two blocks
of the derived H, and the syndrome as a linear function. -/

namespace Sys2Proof.Machine

/-! ## Sums of bits -/

/-- The exclusive or of `f 0`, ..., `f (n - 1)`: the sum over GF(2), of which `parity` is the case
of the bits of a word. -/
def xorSum (n : Nat) (f : Nat → Bool) : Bool :=
  (List.range n).foldl (fun acc j => acc ^^ f j) false

theorem parity_eq_xorSum {n : Nat} (v : BitVec n) : parity v = xorSum n v.getLsbD := rfl

@[simp] theorem xorSum_zero (f : Nat → Bool) : xorSum 0 f = false := rfl

theorem xorSum_succ (n : Nat) (f : Nat → Bool) : xorSum (n + 1) f = (xorSum n f ^^ f n) := by
  simp [xorSum, List.range_succ]

theorem xorSum_congr {n : Nat} {f g : Nat → Bool} (h : ∀ j < n, f j = g j) :
    xorSum n f = xorSum n g := by
  induction n with
  | zero => rfl
  | succ n ih => rw [xorSum_succ, xorSum_succ, ih fun j hj => h j (by omega), h n (by omega)]

theorem xorSum_xor (n : Nat) (f g : Nat → Bool) :
    xorSum n (fun j => f j ^^ g j) = (xorSum n f ^^ xorSum n g) := by
  induction n with
  | zero => rfl
  | succ n ih =>
    rw [xorSum_succ, xorSum_succ, xorSum_succ, ih]
    simp only [Bool.xor_assoc, Bool.xor_left_comm]

@[simp] theorem xorSum_false (n : Nat) : xorSum n (fun _ => false) = false := by
  induction n with
  | zero => rfl
  | succ n ih => simp [xorSum_succ, ih]

/-- A sum over two blocks of indexes. -/
theorem xorSum_add (m n : Nat) (f : Nat → Bool) :
    xorSum (m + n) f = (xorSum m f ^^ xorSum n (fun j => f (m + j))) := by
  induction n with
  | zero => simp
  | succ n ih => rw [← Nat.add_assoc, xorSum_succ, xorSum_succ, ih, Bool.xor_assoc]

/-- A sum in which one index k alone can count. -/
theorem xorSum_single (n k : Nat) (f : Nat → Bool) :
    xorSum n (fun j => decide (j = k) && f j) = (decide (k < n) && f k) := by
  induction n with
  | zero => simp
  | succ n ih =>
    rw [xorSum_succ, ih]
    obtain hlt | rfl | hgt := Nat.lt_trichotomy k n
    · have hne : n ≠ k := by omega
      have hlt' : k < n + 1 := by omega
      simp [hlt, hne, hlt']
    · simp
    · have hne : n ≠ k := by omega
      have hle : ¬ k < n := by omega
      have hle' : ¬ k < n + 1 := by omega
      simp [hne, hle, hle']

theorem parity_zero (n : Nat) : parity (0#n) = false := by
  rw [parity_eq_xorSum, ← xorSum_false n]
  exact xorSum_congr fun _ _ => BitVec.getLsbD_zero

theorem parity_xor {n : Nat} (a b : BitVec n) : parity (a ^^^ b) = (parity a ^^ parity b) := by
  simp only [parity_eq_xorSum, ← xorSum_xor]
  exact xorSum_congr fun j _ => BitVec.getLsbD_xor

/-! ## The syndrome function -/

theorem bitVec_and_xor_distrib {n : Nat} (a b c : BitVec n) :
    a &&& (b ^^^ c) = a &&& b ^^^ a &&& c := by
  refine BitVec.eq_of_getLsbD_eq fun j _ => ?_
  simp only [BitVec.getLsbD_and, BitVec.getLsbD_xor, Bool.and_xor_distrib_left]

/-- Bit i of the syndrome is the parity of row i of H and e (41_syndrome.md R140). -/
theorem getLsbD_syndrome (h : Matrix) (e : Pattern) {i : Nat} (hi : i < 12) :
    (syndrome h e).getLsbD i = parity (rowAt h i &&& e) := by
  simp only [syndrome, getLsbD_bitsOf, hi, decide_true, Bool.true_and]

theorem syndrome_eq_zero_iff {h : Matrix} {e : Pattern} :
    syndrome h e = 0 ↔ ∀ i < 12, parity (rowAt h i &&& e) = false := by
  constructor
  · intro hzero i hi
    rw [← getLsbD_syndrome h e hi, hzero]
    exact BitVec.getLsbD_zero
  · intro hparity
    refine BitVec.eq_of_getLsbD_eq fun i hi => ?_
    rw [getLsbD_syndrome h e hi, hparity i hi]
    exact BitVec.getLsbD_zero.symm

theorem syndrome_zero (h : Matrix) : syndrome h 0 = 0 := by
  rw [syndrome_eq_zero_iff]
  intro i _
  rw [show rowAt h i &&& (0 : Pattern) = 0#24 from BitVec.and_zero]
  exact parity_zero 24

/-- The syndrome is additive, for every H (41_syndrome.md R143). -/
theorem syndrome_xor (h : Matrix) (a b : Pattern) :
    syndrome h (a ^^^ b) = syndrome h a ^^^ syndrome h b := by
  refine BitVec.eq_of_getLsbD_eq fun i hi => ?_
  rw [BitVec.getLsbD_xor, getLsbD_syndrome h _ hi, getLsbD_syndrome h _ hi, getLsbD_syndrome h _ hi,
    ← parity_xor, bitVec_and_xor_distrib]

/-- Rows with syndrome 0 have only combinations with syndrome 0, by additivity (41_syndrome.md
R149). -/
theorem syndrome_rowCombination_eq_zero {h g : Matrix}
    (hrows : ∀ r < 12, syndrome h (rowAt g r) = 0) (m : BitVec 12) :
    syndrome h (rowCombination g m) = 0 := by
  refine List.foldlRecOn (motive := fun e => syndrome h e = 0) _ _ (syndrome_zero h) ?_
  intro acc hacc r hr
  split
  · rw [syndrome_xor, hacc, hrows r (List.mem_range.mp hr)]
    exact BitVec.xor_self
  · exact hacc

/-! ## The two blocks of the derived H -/

/-- The low block of H is the transposed high block of G (R124). -/
theorem getLsbD_deriveRow_low (g : Matrix) (i : Nat) {j : Nat} (hj : j < 12) :
    (deriveRow g i).getLsbD j = (rowAt g j).getLsbD (12 + i) := by
  have hj24 : j < 24 := by omega
  simp only [deriveRow, getLsbD_bitsOf, hj24, hj, decide_true, Bool.true_and, if_true]

/-- The high block of H is the identity (R124). -/
theorem getLsbD_deriveRow_high (g : Matrix) (i : Nat) {k : Nat} (hk : k < 12) :
    (deriveRow g i).getLsbD (12 + k) = decide (k = i) := by
  have hk24 : 12 + k < 24 := by omega
  have hk12 : ¬ 12 + k < 12 := by omega
  have heq : (12 + k = 12 + i) ↔ k = i := by omega
  simp only [deriveRow, getLsbD_bitsOf, hk24, hk12, decide_true, Bool.true_and, if_false,
    Bool.beq_eq_decide_eq, heq]

/-- Row i of the derived H against any pattern: the low block contributes the selected bits of
column 12 + i of G, the identity contributes bit 12 + i (R124; 41_syndrome.md R141). -/
theorem parity_deriveRow_and (g : Matrix) (e : Pattern) {i : Nat} (hi : i < 12) :
    parity (deriveRow g i &&& e) =
      (xorSum 12 (fun j => (rowAt g j).getLsbD (12 + i) && e.getLsbD j) ^^
        e.getLsbD (12 + i)) := by
  have hlow : xorSum 12 (deriveRow g i &&& e).getLsbD =
      xorSum 12 (fun j => (rowAt g j).getLsbD (12 + i) && e.getLsbD j) :=
    xorSum_congr fun j hj => by rw [BitVec.getLsbD_and, getLsbD_deriveRow_low g i hj]
  have hhigh : xorSum 12 (fun k => (deriveRow g i &&& e).getLsbD (12 + k)) =
      e.getLsbD (12 + i) :=
    calc xorSum 12 (fun k => (deriveRow g i &&& e).getLsbD (12 + k))
      _ = xorSum 12 (fun k => decide (k = i) && e.getLsbD (12 + k)) :=
        xorSum_congr fun k hk => by rw [BitVec.getLsbD_and, getLsbD_deriveRow_high g i hk]
      _ = e.getLsbD (12 + i) := by simp [xorSum_single, hi]
  rw [parity_eq_xorSum, xorSum_add 12 12, hlow, hhigh]

/-- The identity block alone reaches every syndrome: a pattern with the syndrome's bits in its high
half and 0 in its low half (R125). -/
theorem syndrome_deriveH_high (g : Matrix) (a : Syndrome) :
    syndrome (deriveH g) (a.setWidth 24 <<< 12) = a := by
  refine BitVec.eq_of_getLsbD_eq fun i hi => ?_
  have hlow : xorSum 12 (fun j =>
      (rowAt g j).getLsbD (12 + i) && (a.setWidth 24 <<< 12).getLsbD j) = false := by
    rw [← xorSum_false 12]
    refine xorSum_congr fun j hj => ?_
    simp [hj]
  have hhigh : (a.setWidth 24 <<< 12).getLsbD (12 + i) = a.getLsbD i := by
    have hi24 : 12 + i < 24 := by omega
    simp [hi24]
  rw [getLsbD_syndrome _ _ hi, rowAt_deriveH g i hi, parity_deriveRow_and g _ hi, hlow, hhigh,
    Bool.false_xor]

/-- The derived H of the default generator (R130). -/
theorem deriveH_gDef : deriveH Config.gDef =
    #v[0x001A3B, 0x002D1D, 0x004E8E, 0x008B47, 0x010DA3, 0x020ED1, 0x040F68, 0x080BB4, 0x1009DA,
      0x2008ED, 0x400C76, 0x8007FF] := rfl

/-! ## A generator in standard form -/

/-- The low block of G is the identity (R121). -/
theorem getLsbD_low_of_standardForm {g : Matrix} (hg : StandardForm g) {r j : Nat} (hr : r < 12)
    (hj : j < 12) : (rowAt g r).getLsbD j = decide (j = r) := by
  have hbit : ((rowAt g r).extractLsb' 0 12).getLsbD j = (1#12 <<< r).getLsbD j := by rw [hg r hr]
  rw [BitVec.getLsbD_extractLsb', BitVec.getLsbD_shiftLeft, BitVec.getLsbD_one] at hbit
  simp only [hj, decide_true, Nat.zero_add, Bool.true_and] at hbit
  rw [hbit]
  obtain hlt | rfl | hgt := Nat.lt_trichotomy j r
  · simp [hlt, hlt.ne]
  · simp
  · have hpos : j - r ≠ 0 := by omega
    simp [hgt.ne', hpos]

/-- Row i of H and row r of G meet twice in the bit G[r][12 + i], once through the transposed block
and once through the identity (R126). -/
theorem parity_rowAt_deriveH_and_row {g : Matrix} (hg : StandardForm g) {i r : Nat} (hi : i < 12)
    (hr : r < 12) : parity (rowAt (deriveH g) i &&& rowAt g r) = false := by
  have hlow : xorSum 12 (fun j => (rowAt g j).getLsbD (12 + i) && (rowAt g r).getLsbD j) =
      (rowAt g r).getLsbD (12 + i) :=
    calc xorSum 12 (fun j => (rowAt g j).getLsbD (12 + i) && (rowAt g r).getLsbD j)
      _ = xorSum 12 (fun j => decide (j = r) && (rowAt g j).getLsbD (12 + i)) :=
        xorSum_congr fun j hj => by rw [getLsbD_low_of_standardForm hg hr hj, Bool.and_comm]
      _ = (rowAt g r).getLsbD (12 + i) := by simp [xorSum_single, hr]
  rw [rowAt_deriveH g i hi, parity_deriveRow_and g _ hi, hlow, Bool.xor_self]

/-! ## The INIT step -/

/-- In the INIT phase the sequencer's turn is the INIT step (44_batch_and_nop.md R226). -/
theorem sequencerStep_of_init {s : State} (hbusy : s.runState = .busy) (hphase : s.phase = .init) :
    sequencerStep s = .next (initStep s) := by
  simp [sequencerStep, hbusy, hphase]

/-- A G of rank below 12 is refused before H is touched (R122). -/
theorem initStep_of_rank_lt {s : State} (h : rank12 s.cfg.gRom < 12) :
    initStep s = raise .constantIntegrity (BitVec.ofNat 14 (rank12 s.cfg.gRom)) s := if_pos h

/-- A G that passes the rank test gives all of H in the one step (R122). -/
theorem initStep_of_rank_ge {s : State} (h : 12 ≤ rank12 s.cfg.gRom) :
    initStep s = complete { s with hRows := deriveH s.cfg.gRom, hValid := true } :=
  if_neg (Nat.not_lt.mpr h)

end Sys2Proof.Machine
end

section
/-! PROOFS. The obligations about the generator and the parity check. -/

namespace Sys2Proof

open Sys2Proof.Machine

/-- Settles O20: the step's two branches, by the rank test. -/
theorem initStepChecksThenDerives : Obligations.InitStepChecksThenDerives := by
  intro s hbusy hphase
  rw [sequencerStep_of_init hbusy hphase]
  refine ⟨fun hlt => ?_, fun hge => ⟨deriveH s.cfg.gRom, rowAt_deriveH s.cfg.gRom, ?_⟩⟩
  · rw [initStep_of_rank_lt hlt, raise]
  · rw [initStep_of_rank_ge hge]

/-- Settles O50: the two blocks bit by bit; the identity block alone reaches every syndrome. -/
theorem derivedRowsAreTransposeAndIdentity : Obligations.DerivedRowsAreTransposeAndIdentity := by
  refine fun g => ⟨fun i hi => ?_, fun a => ⟨_, syndrome_deriveH_high g a⟩⟩
  rw [← rowAt_eq (deriveH g) i hi, rowAt_deriveH g i hi]
  refine ⟨fun j hj => ?_, fun k hk => getLsbD_deriveRow_high g i hk⟩
  rw [getLsbD_deriveRow_low g i hj, rowAt_eq g j hj]

/-- Settles O53: each row of G is orthogonal to each row of H, so it has syndrome 0, and so has
every combination of rows by linearity. -/
theorem codewordsHaveZeroSyndrome : Obligations.CodewordsHaveZeroSyndrome := by
  intro g hg
  have hrows (r : Nat) (hr : r < 12) : syndrome (deriveH g) (rowAt g r) = 0 :=
    syndrome_eq_zero_iff.mpr fun i hi => parity_rowAt_deriveH_and_row hg hi hr
  exact ⟨fun i hi r hr => parity_rowAt_deriveH_and_row hg hi hr, hrows,
    syndrome_rowCombination_eq_zero hrows⟩

/-- Settles O60: the printed H is evaluated once and the rest with it. The syndromes go through
`List.Forall`, since a quantifier over pairs of words would be decided by running through all 2^36
pairs. -/
theorem workedValuesOfDefaultGenerator : Obligations.WorkedValuesOfDefaultGenerator := by
  refine ⟨deriveH_gDef, ?_, List.forall_iff_forall_mem.mp ?_⟩ <;> rw [deriveH_gDef]
  · decide
  · decide +kernel

end Sys2Proof
end

section
/-! SUPPORT. The syndrome on whole words (spec 41_syndrome.md sections 1 and 2): sums of selected
words, the syndromes of single positions, and the code of a G in standard form. -/

namespace Sys2Proof.Machine

/-! ## Parity as a count -/

/-- A sum over GF(2) is 1 exactly when an odd number of its terms is. -/
theorem xorSum_eq_odd_count (n : Nat) (f : Nat → Bool) :
    xorSum n f = decide (((List.range n).filter f).length % 2 = 1) := by
  induction n with
  | zero => rfl
  | succ n ih =>
    rw [xorSum_succ, ih, List.range_succ, List.filter_append, List.length_append]
    cases hf : f n with
    | false => simp [hf]
    | true =>
      obtain heven | hodd := Nat.mod_two_eq_zero_or_one ((List.range n).filter f).length
      · simp [hf, heven, Nat.add_mod]
      · simp [hf, hodd, Nat.add_mod]

/-- The parity of a word is 1 exactly when its weight is odd (00_scope.md R13). -/
theorem parity_eq_odd_weight {n : Nat} (v : BitVec n) :
    parity v = decide (weight v % 2 = 1) := xorSum_eq_odd_count n v.getLsbD

/-! ## Sums of selected words -/

/-- The exclusive or of the words `v j` over the selected j below n. -/
def selectedSum {k : Nat} (n : Nat) (selected : Nat → Bool) (v : Nat → BitVec k) : BitVec k :=
  (List.range n).foldl (fun acc j => if selected j then acc ^^^ v j else acc) 0

theorem rowCombination_eq_selectedSum (g : Matrix) (m : BitVec 12) :
    rowCombination g m = selectedSum 12 m.getLsbD (rowAt g) := rfl

theorem selectedSum_succ {k : Nat} (n : Nat) (selected : Nat → Bool) (v : Nat → BitVec k) :
    selectedSum (n + 1) selected v =
      if selected n then selectedSum n selected v ^^^ v n else selectedSum n selected v := by
  simp [selectedSum, List.range_succ]

/-- Bit i of a sum of words is the sum of their bits i. -/
theorem getLsbD_selectedSum {k : Nat} (n : Nat) (selected : Nat → Bool) (v : Nat → BitVec k)
    (i : Nat) :
    (selectedSum n selected v).getLsbD i = xorSum n (fun j => (v j).getLsbD i && selected j) := by
  induction n with
  | zero => exact BitVec.getLsbD_zero
  | succ n ih =>
    rw [selectedSum_succ, xorSum_succ, ← ih]
    cases hsel : selected n with
    | false => simp
    | true => simp

/-! ## The syndrome of a derived H -/

/-- The syndrome written on P, bit by bit (41_syndrome.md R141). -/
theorem getLsbD_syndrome_deriveH (g : Matrix) (e : Pattern) {i : Nat} (hi : i < 12) :
    (syndrome (deriveH g) e).getLsbD i =
      (e.getLsbD (12 + i) ^^ xorSum 12 (fun j => (rowAt g j).getLsbD (12 + i) && e.getLsbD j)) := by
  rw [getLsbD_syndrome _ e hi, rowAt_deriveH g i hi, parity_deriveRow_and g e hi, Bool.xor_comm]

/-- Bit i of a word's high half. -/
theorem getLsbD_high (v : Pattern) {i : Nat} (hi : i < 12) :
    (v.extractLsb' 12 12).getLsbD i = v.getLsbD (12 + i) := by
  simp [hi]

/-- The syndrome written on P, on whole words (41_syndrome.md R141). -/
theorem syndrome_deriveH (g : Matrix) (e : Pattern) :
    syndrome (deriveH g) e = e.extractLsb' 12 12 ^^^
      selectedSum 12 e.getLsbD (fun j => (rowAt g j).extractLsb' 12 12) := by
  refine BitVec.eq_of_getLsbD_eq fun i hi => ?_
  rw [getLsbD_syndrome_deriveH g e hi, BitVec.getLsbD_xor, getLsbD_high e hi, getLsbD_selectedSum]
  simp only [getLsbD_high _ hi]

/-! ## Single positions -/

/-- The word `1 << j` has bit j alone. -/
theorem getLsbD_one_shiftLeft {n j : Nat} (hj : j < n) (k : Nat) :
    (1#n <<< j).getLsbD k = decide (k = j) := by
  rw [← BitVec.twoPow_eq, BitVec.getLsbD_twoPow]
  simp [hj, eq_comm]

/-- The syndrome of position j is column j of H (41_syndrome.md R148). -/
theorem getLsbD_syndrome_single (h : Matrix) {i j : Nat} (hi : i < 12) (hj : j < 24) :
    (syndrome h (1#24 <<< j)).getLsbD i = (rowAt h i).getLsbD j :=
  calc (syndrome h (1#24 <<< j)).getLsbD i
    _ = xorSum 24 (rowAt h i &&& 1#24 <<< j).getLsbD := getLsbD_syndrome h _ hi
    _ = xorSum 24 (fun k => decide (k = j) && (rowAt h i).getLsbD k) :=
      xorSum_congr fun k _ => by
        rw [BitVec.getLsbD_and, getLsbD_one_shiftLeft hj, Bool.and_comm]
    _ = (rowAt h i).getLsbD j := by simp [xorSum_single, hj]

/-- The low columns of the derived H are the rows of P (41_syndrome.md R148). -/
theorem syndrome_deriveH_single_low (g : Matrix) {j : Nat} (hj : j < 12) :
    syndrome (deriveH g) (1#24 <<< j) = (rowAt g j).extractLsb' 12 12 := by
  refine BitVec.eq_of_getLsbD_eq fun i hi => ?_
  rw [getLsbD_syndrome_single _ hi (by omega), rowAt_deriveH g i hi, getLsbD_deriveRow_low g i hj,
    getLsbD_high _ hi]

/-- The high columns of the derived H are those of the identity (41_syndrome.md R148). -/
theorem syndrome_deriveH_single_high (g : Matrix) {k : Nat} (hk : k < 12) :
    syndrome (deriveH g) (1#24 <<< (12 + k)) = 1#12 <<< k := by
  refine BitVec.eq_of_getLsbD_eq fun i hi => ?_
  rw [getLsbD_syndrome_single _ hi (by omega), rowAt_deriveH g i hi, getLsbD_deriveRow_high g i hk,
    getLsbD_one_shiftLeft hk, decide_eq_decide.mpr eq_comm]

/-- A pattern is the exclusive or of its set positions. -/
theorem foldl_positions_eq_self (e : Pattern) :
    (positions e).foldl (fun acc j => acc ^^^ 1#24 <<< j) 0 = e := by
  rw [positions, List.foldl_filter]
  refine BitVec.eq_of_getLsbD_eq fun i hi => ?_
  calc (selectedSum 24 e.getLsbD fun j => 1#24 <<< j).getLsbD i
    _ = xorSum 24 (fun j => (1#24 <<< j).getLsbD i && e.getLsbD j) := getLsbD_selectedSum ..
    _ = xorSum 24 (fun j => decide (j = i) && e.getLsbD j) :=
      xorSum_congr fun j hj => by rw [getLsbD_one_shiftLeft hj, decide_eq_decide.mpr eq_comm]
    _ = e.getLsbD i := by simp [xorSum_single, hi]

/-- The syndrome of a pattern is the exclusive or of those of its set positions, by additivity
(41_syndrome.md R148). -/
theorem syndrome_eq_foldl_positions (h : Matrix) (e : Pattern) :
    syndrome h e = (positions e).foldl (fun acc j => acc ^^^ syndrome h (1#24 <<< j)) 0 :=
  calc syndrome h e
    _ = syndrome h ((positions e).foldl (fun acc j => acc ^^^ 1#24 <<< j) 0) := by
      rw [foldl_positions_eq_self]
    _ = (positions e).foldl (fun acc j => acc ^^^ syndrome h (1#24 <<< j)) (syndrome h 0) :=
      (List.foldl_hom (syndrome h) fun a j => (syndrome_xor h a (1#24 <<< j)).symm).symm
    _ = (positions e).foldl (fun acc j => acc ^^^ syndrome h (1#24 <<< j)) 0 := by
      rw [syndrome_zero]

/-! ## The code of a generator in standard form -/

/-- The low half of a combination of rows is the selection itself, since the low block of G is the
identity (40_generator_and_parity_check.md R121). -/
theorem rowCombination_low {g : Matrix} (hg : StandardForm g) (m : BitVec 12) :
    (rowCombination g m).extractLsb' 0 12 = m := by
  refine BitVec.eq_of_getLsbD_eq fun j hj => ?_
  calc ((rowCombination g m).extractLsb' 0 12).getLsbD j
    _ = (rowCombination g m).getLsbD j := by simp [hj]
    _ = xorSum 12 (fun r => (rowAt g r).getLsbD j && m.getLsbD r) := by
      rw [rowCombination_eq_selectedSum, getLsbD_selectedSum]
    _ = xorSum 12 (fun r => decide (r = j) && m.getLsbD r) :=
      xorSum_congr fun r hr => by
        rw [getLsbD_low_of_standardForm hg hr hj, decide_eq_decide.mpr eq_comm]
    _ = m.getLsbD j := by simp [xorSum_single, hj]

theorem rowCombination_injective {g : Matrix} (hg : StandardForm g) :
    Function.Injective (rowCombination g) :=
  Function.LeftInverse.injective (g := (BitVec.extractLsb' 0 12 ·)) (rowCombination_low hg)

/-- With a derived H the low half and the syndrome determine the pattern: the syndrome is the high
half but for a sum that the low half fixes (41_syndrome.md R141). -/
theorem eq_of_low_eq_of_syndrome_deriveH_eq {g : Matrix} {a b : Pattern}
    (hlow : a.extractLsb' 0 12 = b.extractLsb' 0 12)
    (hsyn : syndrome (deriveH g) a = syndrome (deriveH g) b) : a = b := by
  have hlowBit (j : Nat) (hj : j < 12) : a.getLsbD j = b.getLsbD j := by
    simpa [hj] using congrArg (·.getLsbD j) hlow
  have hhighBit (i : Nat) (hi : i < 12) : a.getLsbD (12 + i) = b.getLsbD (12 + i) := by
    have hbit := congrArg (·.getLsbD i) hsyn
    simp only [getLsbD_syndrome_deriveH g _ hi] at hbit
    rw [xorSum_congr fun j hj => by rw [hlowBit j hj]] at hbit
    exact Bool.xor_left_inj.mp hbit
  refine BitVec.eq_of_getLsbD_eq fun k hk => ?_
  obtain hlt | hge := Nat.lt_or_ge k 12
  · exact hlowBit k hlt
  · obtain ⟨i, rfl⟩ := Nat.exists_eq_add_of_le hge
    exact hhighBit i (by omega)

/-- With G in standard form every combination of rows has syndrome 0 (41_syndrome.md R149). -/
theorem syndrome_rowCombination_of_standardForm {g : Matrix} (hg : StandardForm g)
    (m : BitVec 12) : syndrome (deriveH g) (rowCombination g m) = 0 :=
  syndrome_rowCombination_eq_zero
    (fun _ hr => syndrome_eq_zero_iff.mpr fun _ hi => parity_rowAt_deriveH_and_row hg hi hr) m

/-- With G in standard form the kernel of the syndrome is the code: a pattern of syndrome 0 is the
combination that its low half selects (41_syndrome.md R150). -/
theorem syndrome_deriveH_eq_zero_iff {g : Matrix} (hg : StandardForm g) (e : Pattern) :
    syndrome (deriveH g) e = 0 ↔ ∃ m, e = rowCombination g m := by
  constructor
  · intro hzero
    refine ⟨e.extractLsb' 0 12, eq_of_low_eq_of_syndrome_deriveH_eq (g := g) ?_ ?_⟩
    · rw [rowCombination_low hg]
    · rw [hzero, syndrome_rowCombination_of_standardForm hg]
  · rintro ⟨m, rfl⟩
    exact syndrome_rowCombination_of_standardForm hg m

/-- The code of a G in standard form has 4096 words, one for each selection of rows
(41_syndrome.md R150). -/
theorem ncard_range_rowCombination {g : Matrix} (hg : StandardForm g) :
    Set.ncard (Set.range (rowCombination g)) = 4096 :=
  calc Set.ncard (Set.range (rowCombination g))
    _ = Nat.card (BitVec 12) := Set.ncard_range_of_injective (rowCombination_injective hg)
    _ = Nat.card (Fin (2 ^ 12)) := Nat.card_congr BitVec.equivFin.toEquiv
    _ = 4096 := Nat.card_fin _

/-- `G_DEF` with its rows 0 and 1 exchanged is not in standard form, and its row 0 is a codeword of
nonzero syndrome (41_syndrome.md R150, last sentence). -/
theorem syndrome_rowCombination_of_rows_swapped :
    syndrome (deriveH (Config.gDef.swap 0 1)) (rowCombination (Config.gDef.swap 0 1) 1#12) =
      0x726#12 := by
  decide +kernel

/-! ## The SYND step -/

/-- In the SYND phase the sequencer's turn is the SYND step (44_batch_and_nop.md R226). -/
theorem sequencerStep_of_synd {s : State} (hbusy : s.runState = .busy) (hphase : s.phase = .synd) :
    sequencerStep s = .next (syndStep s) := by
  simp [sequencerStep, hbusy, hphase]

end Sys2Proof.Machine
end

section
/-! PROOFS. The obligations about the syndrome. -/

namespace Sys2Proof

open Sys2Proof.Machine

/-- Settles O48: the parity of a word is that of its weight. -/
theorem syndromeIsParityOfRows : Obligations.SyndromeIsParityOfRows := by
  intro h e i hi
  rw [getLsbD_syndrome h e hi, rowAt_eq h i hi, parity_eq_odd_weight]

/-- Settles O49: parity is additive, and 0 on the zero word. -/
theorem syndromeIsLinear : Obligations.SyndromeIsLinear := ⟨syndrome_xor, syndrome_zero⟩

/-- Settles O51: the identity block contributes the high half of e, the other block the rows of P
that the low half selects. -/
theorem syndromeOfDerivedMatrix : Obligations.SyndromeOfDerivedMatrix :=
  fun g e => ⟨fun _ hi => getLsbD_syndrome_deriveH g e hi, syndrome_deriveH g e⟩

/-- Settles O52: the syndrome of a single position is a column of H, and every pattern is the
exclusive or of its set positions. -/
theorem syndromeOfSinglePositions : Obligations.SyndromeOfSinglePositions := by
  refine ⟨fun g j hj => syndrome_deriveH_single_low g hj, fun g j hge hlt => ?_,
    syndrome_eq_foldl_positions⟩
  obtain ⟨k, rfl⟩ := Nat.exists_eq_add_of_le hge
  rw [syndrome_deriveH_single_high g (by omega), Nat.add_sub_cancel_left]

/-- Settles O54: the low half of a pattern of syndrome 0 selects the rows it is the combination of,
and different selections give different words. Without standard form: `G_DEF` with its rows 0 and 1
exchanged, whose row 0 has the syndrome 0x726. -/
theorem kernelIsTheCode : Obligations.KernelIsTheCode := by
  refine ⟨fun g hg => ⟨syndrome_deriveH_eq_zero_iff hg, ?_⟩, Config.gDef.swap 0 1, 1#12, ?_⟩
  · rw [← ncard_range_rowCombination hg]
    exact congrArg Set.ncard (Set.ext fun e =>
      (syndrome_deriveH_eq_zero_iff hg e).trans (exists_congr fun _ => eq_comm))
  · rw [syndrome_rowCombination_of_rows_swapped]
    decide

/-- Settles O22: the sequencer's turn in the SYND phase. -/
theorem syndStepWritesSyndrome : Obligations.SyndStepWritesSyndrome := by
  intro s hbusy hphase
  rw [sequencerStep_of_synd hbusy hphase, syndStep]

end Sys2Proof
end

section
/-! SUPPORT. The coset-leader search (spec 42_coset_leader_search.md): the set positions of a
pattern (R163), and the four ways a SEARCH step goes on after the recording (R166, R168, R170, R171). -/

namespace Sys2Proof.Machine

/-! ## The positions of a pattern -/

/-- Bit j of the OR of `1 << f k` over k below n; a position from 24 on is shifted out. -/
theorem getLsbD_foldl_or_shiftLeft (f : Nat → Nat) (n : Nat) {j : Nat} (hj : j < 24) :
    ((List.range n).foldl (fun acc k => acc ||| (1#24 <<< f k)) 0).getLsbD j = true ↔
      ∃ k < n, f k = j := by
  induction n with
  | zero => simp
  | succ n ih =>
    have hbit : (1#24 <<< f n).getLsbD j = true ↔ f n = j := by
      rw [← BitVec.twoPow_eq, BitVec.getLsbD_twoPow]
      simpa using fun h : f n = j => h ▸ hj
    rw [List.range_succ, List.foldl_append, List.foldl_cons, List.foldl_nil, BitVec.getLsbD_or,
      Bool.or_eq_true, ih, hbit, Nat.exists_lt_succ_right]

/-- The set positions of a pattern are the first W indexes (R163). -/
theorem getLsbD_pattern (w : BitVec 3) (idx : Vector (BitVec 5) 6) {j : Nat} (hj : j < 24) :
    (pattern w idx).getLsbD j = true ↔ ∃ k < w.toNat, idxAt idx k = j :=
  getLsbD_foldl_or_shiftLeft (idxAt idx) w.toNat hj

/-- The set positions of a word, as a rising list. -/
theorem positions_sortedLT {n : Nat} (v : BitVec n) : (positions v).SortedLT :=
  (List.pairwise_lt_range.filter _).sortedLT

/-- The tuple of a W-subset, as a rising list (R28). -/
theorem sortedLT_map_idxAt {w : BitVec 3} {idx : Vector (BitVec 5) 6} (h : ValidComb w idx) :
    ((List.range w.toNat).map (idxAt idx)).SortedLT := by
  obtain ⟨-, -, hrising, -⟩ := h
  refine List.Pairwise.sortedLT (List.pairwise_map.mpr ?_)
  exact List.pairwise_lt_range.imp_of_mem fun _ hk hlt => hrising _ (List.mem_range.mp hk) _ hlt

/-- The pattern of a W-subset has the tuple itself as its list of set positions: both rise, and they
have the same members (R163). -/
theorem positions_pattern {w : BitVec 3} {idx : Vector (BitVec 5) 6} (h : ValidComb w idx) :
    positions (pattern w idx) = (List.range w.toNat).map (idxAt idx) := by
  refine (positions_sortedLT _).eq_of_mem_iff (sortedLT_map_idxAt h) fun j => ?_
  obtain ⟨-, hbound, -, -⟩ := h
  rw [positions, List.mem_filter, List.mem_range, List.mem_map]
  simp only [List.mem_range]
  constructor
  · rintro ⟨hj, hbit⟩
    exact (getLsbD_pattern w idx hj).mp hbit
  · rintro ⟨k, hk, rfl⟩
    exact ⟨hbound k hk, (getLsbD_pattern w idx (hbound k hk)).mpr ⟨k, hk, rfl⟩⟩

/-- The pattern of a W-subset has weight W (R163). -/
theorem weight_pattern {w : BitVec 3} {idx : Vector (BitVec 5) 6} (h : ValidComb w idx) :
    weight (pattern w idx) = w.toNat := by
  rw [weight, positions_pattern h, List.length_map, List.length_range]

/-! ## Going on after the recording -/

/-- Entry k of a class's first subset (R170). -/
theorem idxAt_firstComb (w : BitVec 3) {k : Nat} (hk : k < 6) :
    idxAt (firstComb w) k = if k < w.toNat then k else 0 := by
  rw [firstComb, idxAt_idxOf _ _ hk]
  split
  · rw [BitVec.toNat_ofNat, Nat.mod_eq_of_lt (by omega)]
  · rfl

/-- The first half of a SEARCH step leaves the sequencer and the table flag alone (R164). -/
theorem examine_sequencer (s : State) :
    (examine s).op = s.op ∧ (examine s).runState = s.runState ∧ (examine s).w = s.w ∧
      (examine s).idx = s.idx ∧ (examine s).tableValid = s.tableValid := by
  obtain ⟨-, h⟩ | ⟨-, h⟩ := examine_cases s <;> simp [h]

/-- At 4096 syndromes RUN goes on to the serializer, whatever candidates are left (R166, R224). -/
theorem advance_of_full_run {s : State} (h : s.count = 4096) (hop : s.op = .run)
    (hphase : s.phase = .search) : advance s = serialBegin { s with tableValid := true } := by
  rw [advance, if_pos h]
  simp [complete, hop, hphase]

/-- At 4096 syndromes any other command ends, whatever candidates are left (R166, R224). -/
theorem advance_of_full_not_run {s : State} (h : s.count = 4096) (hop : s.op ≠ .run) :
    advance s = toIdle { s with tableValid := true } := by
  rw [advance, if_pos h]
  simp [complete, hop]

/-- Below 4096 the phase stays SEARCH, in the ceiling fault too, and the table is not yet valid. -/
theorem advance_of_not_full {s : State} (h : s.count ≠ 4096) :
    (advance s).phase = s.phase ∧ (advance s).tableValid = s.tableValid := by
  obtain ⟨hfull, -⟩ | ⟨-, _, -, hadv⟩ | ⟨-, -, -, hadv⟩ | ⟨-, -, -, hadv⟩ := advance_cases s
  · exact absurd hfull h
  all_goals simp [hadv]

/-- The next subset of the class is the next candidate (R168). -/
theorem advance_of_successor {s : State} {idx : Vector (BitVec 5) 6} (h : s.count ≠ 4096)
    (hnext : nextComb s.w s.idx = some idx) : advance s = { s with idx := idx } := by
  rw [advance, if_neg h, hnext]

/-- After a class's last subset, below the ceiling, comes the first of the next class (R170). -/
theorem advance_of_class_done {s : State} (h : s.count ≠ 4096) (hlast : nextComb s.w s.idx = none)
    (hbelow : s.w.toNat < s.cfg.wMax.val) :
    advance s = { s with w := s.w + 1, idx := firstComb (s.w + 1) } := by
  rw [advance, if_neg h, hlast]
  exact if_pos hbelow

/-- After the last subset of the last class comes SearchIncompleteError (R171). -/
theorem advance_of_ceiling {s : State} (h : s.count ≠ 4096) (hlast : nextComb s.w s.idx = none)
    (hceiling : s.cfg.wMax.val ≤ s.w.toNat) : advance s = raise .searchIncomplete 0 s := by
  rw [advance, if_neg h, hlast]
  exact if_neg (Nat.not_lt.mpr hceiling)

/-- W counts up below the ceiling, which is at most 6, without wrapping (R27). -/
theorem toNat_w_succ {s : State} (h : s.w.toNat < s.cfg.wMax.val) :
    (s.w + 1).toNat = s.w.toNat + 1 := by
  have hmax : s.cfg.wMax.val < 7 := s.cfg.wMax.isLt
  have hone : (1 : BitVec 3).toNat = 1 := rfl
  rw [BitVec.toNat_add_of_lt (by omega), hone]

end Sys2Proof.Machine
end

section
/-! PROOFS. The obligations about the coset-leader search. -/

namespace Sys2Proof

open Sys2Proof.Machine

/-- Settles O25: the first half of the step leaves OP, W and IDX, so the second half goes on from
them, by COUNT as updated, then by the successor, then by the ceiling. -/
theorem searchStepAdvances : Obligations.SearchStepAdvances := by
  intro s t hbusy hphase hstep
  obtain rfl : searchStep s = t := by
    simpa [sequencerStep_of_search hbusy hphase] using hstep
  obtain ⟨hop, hrun, hw, hidx, htable⟩ := examine_sequencer s
  obtain ⟨-, hphaseE, -⟩ := examine_frame s
  have hbusyE : (examine s).runState = .busy := hrun.trans hbusy
  have hsearch : (examine s).phase = .search := hphaseE.trans hphase
  obtain ⟨-, -, -, -, -, hcount, -⟩ := advance_frame hsearch
  rw [searchStep, hcount, ← hop, ← hw, ← hidx, ← htable, ← examine_cfg s]
  refine ⟨fun hfull => ?_, fun hmore => ?_⟩
  · by_cases hop : (examine s).op = .run
    · rw [advance_of_full_run hfull hop hsearch]
      exact ⟨rfl, rfl, rfl, fun _ => ⟨rfl, hbusyE⟩, fun hne => absurd hop hne⟩
    · rw [advance_of_full_not_run hfull hop]
      exact ⟨rfl, rfl, rfl, fun heq => absurd heq hop, fun _ => ⟨rfl, rfl⟩⟩
  · obtain ⟨hphaseA, htableA⟩ := advance_of_not_full hmore
    refine ⟨hphaseA.trans hsearch, htableA, fun idx hnext => ?_, fun hlast hbelow => ?_,
      fun hlast hceiling => ?_⟩
    · rw [advance_of_successor hmore hnext]
      exact ⟨rfl, rfl, hbusyE⟩
    · rw [advance_of_class_done hmore hlast hbelow, ← toNat_w_succ hbelow]
      exact ⟨rfl, hbusyE, fun k hk => idxAt_firstComb _ hk⟩
    · rw [advance_of_ceiling hmore hlast hceiling]
      exact ⟨rfl, rfl, rfl, rfl, rfl⟩

/-- Settles O57: the OR sets the bits of the first W indexes, and those of a W-subset rise, so that
they are W different ones. -/
theorem patternHasItsPositions : Obligations.PatternHasItsPositions :=
  ⟨fun w idx _ hj => getLsbD_pattern w idx hj, fun _ _ h => weight_pattern h⟩

end Sys2Proof
end

section
/-! SUPPORT. The table serializer (spec 43_table_serializer.md): the RDROW step (R191), what each
answer of the sink does in a SERIAL step (R196, R198), and OUT after a byte is accepted (R202). -/

namespace Sys2Proof.Machine

/-! ## The sequencer's turn in the two phases -/

/-- In the RDROW phase the sequencer's turn is the RDROW step (44_batch_and_nop.md R226). -/
theorem sequencerStep_of_rdrow {s : State} (hbusy : s.runState = .busy)
    (hphase : s.phase = .rdrow) : sequencerStep s = .next (rdrowStep s) := by
  simp [sequencerStep, hbusy, hphase]

/-- In the SERIAL phase the sequencer's turn is a SERIAL step (44_batch_and_nop.md R226). -/
theorem sequencerStep_of_serial {s : State} (hbusy : s.runState = .busy)
    (hphase : s.phase = .serial) : sequencerStep s = .next (serialStep s) := by
  simp [sequencerStep, hbusy, hphase]

/-- The end of the SERIAL phase ends the command, RUN included (R224). -/
theorem complete_of_serial {s : State} (h : s.phase = .serial) : complete s = toIdle s := by
  simp [complete, h]

/-! ## The answers of the sink -/

/-- While the sink has not answered, the SERIAL step has not happened (R196). -/
theorem serialStep_of_no_answer {s : State} (h : s.answers = []) : serialStep s = s := by
  simp [serialStep, h]

/-- The answer `err` raises PersistenceError with the byte's offset (R203). -/
theorem serialStep_of_err {s : State} {rest : List SinkAnswer} (h : s.answers = .err :: rest) :
    serialStep s =
      raise .persistence (BitVec.ofNat 14 (byteOffset s)) { s with answers := rest } := by
  simp [serialStep, h]

/-- The answer `ok` lets the byte through (R198). -/
theorem serialStep_of_ok {s : State} {rest : List SinkAnswer} (h : s.answers = .ok :: rest) :
    serialStep s = serialOk { s with answers := rest } := by
  simp [serialStep, h]

theorem isFirst_iff {s : State} : isFirst s = true ↔ s.row = 0 ∧ s.byte = 0 := by
  simp [isFirst]

theorem isLast_iff {s : State} : isLast s = true ↔ s.row = 4095 ∧ s.byte = 2 := by
  simp [isLast]

/-- An accepted byte starts OUT over at (0, 0) and is appended to it anywhere else (R196). -/
theorem sinkAccept_sinkOffer (s : State) (out : List Byte) :
    sinkAccept (sinkOffer s) out =
      if s.row = 0 ∧ s.byte = 0 then [byteOf (leaderAt s s.row) s.byte]
      else out ++ [byteOf (leaderAt s s.row) s.byte] := by
  simp only [← isFirst_iff]
  rfl

/-- The last byte commits and ends the command (R198). -/
theorem serialStep_of_ok_last {s : State} {rest : List SinkAnswer} (h : s.answers = .ok :: rest)
    (hphase : s.phase = .serial) (hrow : s.row = 4095) (hbyte : s.byte = 2) :
    serialStep s = toIdle { s with
      answers := rest, out := sinkAccept (sinkOffer s) s.out, outCommit := true } := by
  rw [serialStep_of_ok h]
  exact (if_pos (isLast_iff.mpr ⟨hrow, hbyte⟩)).trans (complete_of_serial hphase)

/-- After the last byte of any other row comes the first of the next row (R198). -/
theorem serialStep_of_ok_row_end {s : State} {rest : List SinkAnswer}
    (h : s.answers = .ok :: rest) (hrow : s.row ≠ 4095) (hbyte : s.byte = 2) :
    serialStep s = { s with
      answers := rest, out := sinkAccept (sinkOffer s) s.out, byte := 0, row := s.row + 1 } := by
  rw [serialStep_of_ok h]
  exact (if_neg fun hlast => hrow (isLast_iff.mp hlast).1).trans (if_pos hbyte)

/-- Inside a row comes the row's next byte (R198). -/
theorem serialStep_of_ok_row_inside {s : State} {rest : List SinkAnswer}
    (h : s.answers = .ok :: rest) (hbyte : s.byte ≠ 2) :
    serialStep s = { s with
      answers := rest, out := sinkAccept (sinkOffer s) s.out, byte := s.byte + 1 } := by
  rw [serialStep_of_ok h]
  exact (if_neg fun hlast => hbyte (isLast_iff.mp hlast).2).trans (if_neg hbyte)

/-- Everything a SERIAL step can do, by the sink's answer and the place of the byte. -/
theorem serialStep_cases {s : State} (hphase : s.phase = .serial) :
    (s.answers = [] ∧ serialStep s = s) ∨
    (∃ rest, s.answers = .err :: rest ∧ serialStep s =
      raise .persistence (BitVec.ofNat 14 (byteOffset s)) { s with answers := rest }) ∨
    ∃ rest, s.answers = .ok :: rest ∧
      ((s.row = 4095 ∧ s.byte = 2 ∧ serialStep s = toIdle { s with
        answers := rest, out := sinkAccept (sinkOffer s) s.out, outCommit := true }) ∨
      (s.row ≠ 4095 ∧ s.byte = 2 ∧ serialStep s = { s with
        answers := rest, out := sinkAccept (sinkOffer s) s.out, byte := 0, row := s.row + 1 }) ∨
      (s.byte ≠ 2 ∧ serialStep s = { s with
        answers := rest, out := sinkAccept (sinkOffer s) s.out, byte := s.byte + 1 })) := by
  match h : s.answers with
  | [] => exact .inl ⟨rfl, serialStep_of_no_answer h⟩
  | .err :: rest => exact .inr (.inl ⟨rest, rfl, serialStep_of_err h⟩)
  | .ok :: rest =>
    refine .inr (.inr ⟨rest, rfl, ?_⟩)
    by_cases hbyte : s.byte = 2
    · by_cases hrow : s.row = 4095
      · exact .inl ⟨hrow, hbyte, serialStep_of_ok_last h hphase hrow hbyte⟩
      · exact .inr (.inl ⟨hrow, hbyte, serialStep_of_ok_row_end h hrow hbyte⟩)
    · exact .inr (.inr ⟨hbyte, serialStep_of_ok_row_inside h hbyte⟩)

/-- A SERIAL step leaves LEADER and the reset count, so it changes no cell (R192). -/
theorem serialStep_table {s : State} (hphase : s.phase = .serial) :
    (serialStep s).leader = s.leader ∧ (serialStep s).resets = s.resets := by
  obtain ⟨-, h⟩ | ⟨rest, -, h⟩ | ⟨rest, -, ⟨-, -, h⟩ | ⟨-, -, h⟩ | ⟨-, h⟩⟩ :=
    serialStep_cases hphase <;> simp [h]

/-- A SERIAL step that ends in IDLE has had its last byte accepted (R198). -/
theorem serialStep_of_idle {s : State} (hbusy : s.runState = .busy) (hphase : s.phase = .serial)
    (hidle : (serialStep s).runState = .idle) :
    s.row = 4095 ∧ s.byte = 2 ∧ ∃ rest, serialStep s =
      toIdle { s with
        answers := rest, out := sinkAccept (sinkOffer s) s.out, outCommit := true } := by
  obtain ⟨-, h⟩ | ⟨rest, -, h⟩ | ⟨rest, -, ⟨hrow, hbyte, h⟩ | ⟨-, -, h⟩ | ⟨-, h⟩⟩ :=
    serialStep_cases hphase
  · simp [h, hbusy] at hidle
  · simp [h] at hidle
  · exact ⟨hrow, hbyte, rest, h⟩
  · simp [h, hbusy] at hidle
  · simp [h, hbusy] at hidle

/-! ## OUT after an accepted byte -/

/-- One more byte of the artifact is the one at its place, byte `n mod 3` of row `n / 3` (R200). -/
theorem artifactPrefix_succ (s : State) (n : Nat) : artifactPrefix s (n + 1) = artifactPrefix s n ++
    [byteOf (leaderAt s (BitVec.ofNat 12 (n / 3))) (BitVec.ofNat 2 (n % 3))] := by
  simp [artifactPrefix, List.range_succ]

/-- The byte at the offset of (ROW, BYTE) is the byte the SERIAL step offers (R198, R200). -/
theorem artifactPrefix_byteOffset_succ {s : State} (hbyte : s.byte.toNat ≤ 2) :
    artifactPrefix s (byteOffset s + 1) =
      artifactPrefix s (byteOffset s) ++ [byteOf (leaderAt s s.row) s.byte] := by
  have hrow : byteOffset s / 3 = s.row.toNat := by rw [byteOffset]; omega
  have hmod : byteOffset s % 3 = s.byte.toNat := by rw [byteOffset]; omega
  rw [artifactPrefix_succ, hrow, hmod, BitVec.ofNat_toNat, BitVec.ofNat_toNat,
    BitVec.setWidth_eq, BitVec.setWidth_eq]

/-- The first byte is the one at offset 0 (R198). -/
theorem byteOffset_eq_zero_iff {s : State} : byteOffset s = 0 ↔ s.row = 0 ∧ s.byte = 0 := by
  simp [byteOffset, BitVec.toNat_eq]

/-- Where OUT holds the bytes sent before (ROW, BYTE), accepting the byte at (ROW, BYTE) leaves one
byte more of the artifact, the first byte included, which drops what OUT held before (R202). -/
theorem sinkAccept_eq_artifactPrefix {s : State} (hbyte : s.byte.toNat ≤ 2)
    (hsent : 0 < byteOffset s → s.out = artifactPrefix s (byteOffset s)) :
    sinkAccept (sinkOffer s) s.out = artifactPrefix s (byteOffset s + 1) := by
  rw [sinkAccept_sinkOffer, artifactPrefix_byteOffset_succ hbyte]
  obtain hzero | hpos := Nat.eq_zero_or_pos (byteOffset s)
  · rw [if_pos (byteOffset_eq_zero_iff.mp hzero), hzero]
    rfl
  · rw [if_neg fun hfirst => hpos.ne' (byteOffset_eq_zero_iff.mpr hfirst), hsent hpos]

end Sys2Proof.Machine
end

section
/-! PROOFS. The obligations about the table serializer. -/

namespace Sys2Proof

open Sys2Proof.Machine

/-- Settles O46: the sequencer's only way from the SERIAL phase to IDLE is the accepted last byte, at
offset 12287, before which the sink invariant gives OUT as the first 12287 bytes. -/
theorem commitMeansWholeArtifact : Obligations.CommitMeansWholeArtifact := by
  intro s t hcontrol hsink hbusy hphase hstep
  obtain rfl : serialStep s = t := by
    simpa [sequencerStep_of_serial hbusy hphase] using hstep
  obtain ⟨hleader, hresets⟩ := serialStep_table hphase
  refine ⟨leaderAt_congr hleader hresets, fun i => exec_rejected (.inl (by simp [hbusy])),
    fun hidle => ?_⟩
  obtain ⟨hrow, hbyte, rest, hend⟩ := serialStep_of_idle hbusy hphase hidle
  have hcommit : (serialStep s).outCommit = true := by simp [hend]
  have hoffset : byteOffset s = 12287 := by rw [byteOffset, hrow, hbyte]; rfl
  have hout : (serialStep s).out = artifact (serialStep s) :=
    calc (serialStep s).out = sinkAccept (sinkOffer s) s.out := by simp [hend]
      _ = artifactPrefix s (byteOffset s + 1) :=
        sinkAccept_eq_artifactPrefix hcontrol.byte_le (hsink.sent_prefix hphase)
      _ = artifactPrefix s 12288 := by rw [hoffset]
      _ = artifact (serialStep s) := (artifactPrefix_congr hleader hresets 12288).symm
  exact ⟨hcommit, hout, by rw [hout, artifact_length]⟩

/-- Settles O26: one equation for each answer of the sink, and for `ok` one for each place the byte
can have. -/
theorem serialStepSendsOneByte : Obligations.SerialStepSendsOneByte := by
  intro s hbusy hphase
  rw [sequencerStep_of_serial hbusy hphase]
  refine ⟨fun hnone => ?_, fun rest herr => ?_, fun rest b out hok hb hout => ?_⟩
  · rw [serialStep_of_no_answer hnone]
  · rw [serialStep_of_err herr, raise, byteOffset]
  · have haccept : out = sinkAccept (sinkOffer s) s.out := by
      rw [sinkAccept_sinkOffer, byteOf, ← hb, hout]
    rw [haccept]
    refine ⟨fun ⟨hrow, hbyte⟩ => ?_, fun ⟨hrow, hbyte⟩ => ?_, fun hbyte => ?_⟩
    · rw [serialStep_of_ok_last hok hphase hrow hbyte, toIdle]
    · rw [serialStep_of_ok_row_end hok hrow hbyte]
    · rw [serialStep_of_ok_row_inside hok hbyte]

/-- Settles O23: the sequencer's turn in the RDROW phase. -/
theorem rdrowStepReadsTheRow : Obligations.RdrowStepReadsTheRow := by
  intro s hbusy hphase
  rw [sequencerStep_of_rdrow hbusy hphase, rdrowStep]

end Sys2Proof
end

section
/-! SUPPORT. The batch (spec 44_batch_and_nop.md): where `complete()` leads from each phase, and that an
INIT or SEARCH step that ends in IDLE is a call of it (R224). -/

namespace Sys2Proof.Machine

/-! ## Where `complete()` leads -/

/-- RUN goes on from INIT to the search (R224). -/
theorem complete_of_run_init {s : State} (hop : s.op = .run) (hphase : s.phase = .init) :
    complete s = searchBegin s := if_pos ⟨hop, hphase⟩

/-- RUN goes on from the search to the serializer (R224). -/
theorem complete_of_run_search {s : State} (hop : s.op = .run) (hphase : s.phase = .search) :
    complete s = serialBegin s := by
  simp [complete, hop, hphase]

/-- Every other end of a phase ends the command (R224). -/
theorem complete_of_not_chained {s : State}
    (h : s.op ≠ .run ∨ (s.phase ≠ .init ∧ s.phase ≠ .search)) : complete s = toIdle s := by
  obtain ⟨hop, hphase, -⟩ | ⟨hop, hphase, -⟩ | ⟨-, hidle⟩ := complete_cases s
  · simp [hop, hphase] at h
  · simp [hop, hphase] at h
  · exact hidle

/-! ## The steps that end in IDLE -/

/-- An INIT step that ends in IDLE has passed the rank test (R122). -/
theorem initStep_of_idle {s : State} (hidle : (initStep s).runState = .idle) :
    initStep s = complete { s with hRows := deriveH s.cfg.gRom, hValid := true } := by
  obtain hlt | hge := Nat.lt_or_ge (rank12 s.cfg.gRom) 12
  · simp [initStep_of_rank_lt hlt] at hidle
  · exact initStep_of_rank_ge hge

/-- The second half of a SEARCH step that ends in IDLE has found all 4096 syndromes (R166). -/
theorem advance_of_idle {s : State} (hbusy : s.runState = .busy)
    (hidle : (advance s).runState = .idle) :
    advance s = complete { s with tableValid := true } := by
  obtain ⟨-, hadv⟩ | ⟨-, _, -, hadv⟩ | ⟨-, -, -, hadv⟩ | ⟨-, -, -, hadv⟩ := advance_cases s
  · exact hadv
  all_goals simp [hadv, hbusy] at hidle

end Sys2Proof.Machine
end

section
/-! PROOFS. The obligations about the batch and NOP. -/

namespace Sys2Proof

open Sys2Proof.Machine

/-- Settles O21: the three branches of `complete()`, then the phases one by one. The SYND, RDROW and
NOP steps are always calls of `complete()`; the INIT, SEARCH and SERIAL steps are when they end in
IDLE. -/
theorem completeChainsRun : Obligations.CompleteChainsRun := by
  refine ⟨fun s => complete_of_run_init, fun s => complete_of_run_search,
    fun s => complete_of_not_chained, fun s t hbusy hstep hidle => ?_⟩
  obtain ⟨hnot, -⟩ | ⟨-, ⟨-, rfl⟩ | ⟨-, rfl⟩ | ⟨-, rfl⟩ | ⟨-, rfl⟩ | ⟨hserial, rfl⟩ | ⟨-, rfl⟩⟩ :=
    sequencerStep_cases hstep
  · exact absurd hbusy hnot
  · exact ⟨{ s with hRows := deriveH s.cfg.gRom, hValid := true }, rfl, rfl,
      initStep_of_idle hidle⟩
  · exact ⟨{ s with sReg := syndrome s.hRows s.eReg }, rfl, rfl, rfl⟩
  · obtain ⟨hop, hrun, -⟩ := examine_sequencer s
    obtain ⟨-, hphase, -⟩ := examine_frame s
    exact ⟨{ examine s with tableValid := true }, hop, hphase,
      advance_of_idle (hrun.trans hbusy) hidle⟩
  · exact ⟨{ s with eReg := leaderAt s s.sReg }, rfl, rfl, rfl⟩
  · obtain ⟨-, -, rest, hend⟩ := serialStep_of_idle hbusy hserial hidle
    exact ⟨{ s with answers := rest, out := sinkAccept (sinkOffer s) s.out, outCommit := true },
      rfl, rfl, hend.trans (Eq.symm (complete_of_serial hserial))⟩
  · exact ⟨s, rfl, rfl, rfl⟩

end Sys2Proof
end

section
/-! SUPPORT. Faults (spec 60_exceptions.md): the fields of the fault record (R236), what a turn can do
in FAULT, and that a reset turn leaves it (R240). -/

namespace Sys2Proof.Machine

/-! ## The fault record -/

/-- The fault record holds W, COUNT and aux at their bits, and 0 above them (R236). -/
theorem faultRecord_fields (aux : BitVec 14) (count : BitVec 13) (w : BitVec 3) :
    (faultRecord aux count w).extractLsb' 0 3 = w ∧
      (faultRecord aux count w).extractLsb' 3 13 = count ∧
      (faultRecord aux count w).extractLsb' 16 14 = aux ∧
      (faultRecord aux count w).extractLsb' 30 2 = 0 := by
  refine ⟨?_, ?_, ?_, ?_⟩ <;>
    simp [faultRecord, BitVec.extractLsb'_or, extractLsb'_field_same, extractLsb'_field_disjoint]

/-! ## Turns outside BUSY and IDLE -/

/-- Outside BUSY the sequencer has no step (44_batch_and_nop.md R226). -/
theorem sequencerStep_of_not_busy {s : State} (h : s.runState ≠ .busy) :
    sequencerStep s = .next s := by
  unfold sequencerStep
  cases hrun : s.runState with
  | busy => exact absurd hrun h
  | idle => rfl
  | fault => rfl

/-- Outside IDLE every word written to CMD is rejected, legal or not (30_encoding.md R97). -/
theorem hostWrite_zero_of_not_idle {s : State} (h : s.runState ≠ .idle) (v : Word) :
    hostWrite 0 v s = .next (reject s) := by
  obtain ⟨rejects, -⟩ := commandWriteAcceptsOrRejects v s
  exact rejects (.inl h)

/-- Outside BUSY a WAIT is over at once (30_encoding.md R101). -/
theorem step_wait_of_not_busy {s : State} {rest : List Input} (hinputs : s.inputs = .wait :: rest)
    (h : s.runState ≠ .busy) : step s = .next { s with inputs := rest } := by
  simp [step, turn, hinputs, h]

/-- Outside IDLE a host write leaves everything but CMDREJ (R240). -/
theorem hostWrite_frame_of_not_idle {ra : BitVec 6} {v : Word} {s t : State}
    (h : s.runState ≠ .idle) (hwrite : hostWrite ra v s = .next t) :
    ∃ rej, t = { s with cmdRej := rej } := by
  by_cases hra : ra = 0
  · rw [hra, hostWrite_zero_of_not_idle h] at hwrite
    cases hwrite
    exact ⟨true, rfl⟩
  · rw [hostWrite_of_ne_zero hra] at hwrite
    cases hwrite
    exact ⟨s.cmdRej, rfl⟩

/-! ## A whole step in FAULT -/

/-- In FAULT no step but a reset changes anything besides CMDREJ and the model's own schedule and
record of reads (R240). -/
theorem step_frame_of_fault {s t : State} (hfault : s.runState = .fault) (hstep : step s = .next t)
    (hreset : ¬ ResetTurn s) :
    ∃ rej inputs reads, t = { s with cmdRej := rej, inputs := inputs, reads := reads } := by
  have hbusy : s.runState ≠ .busy := by simp [hfault]
  have hidle : s.runState ≠ .idle := by simp [hfault]
  obtain ⟨-, hseq⟩ | ⟨ra, v, rest, -, hwrite⟩ | ⟨ra, rest, -, rfl⟩ | ⟨rest, -, hseq⟩ |
    ⟨rest, -, hwait, -⟩ | ⟨rest, -, -, rfl⟩ | ⟨taken, rest, hinputs, -⟩ := step_cases hstep
  · rw [sequencerStep_of_not_busy hbusy] at hseq
    cases hseq
    exact ⟨_, _, _, rfl⟩
  · obtain ⟨rej, rfl⟩ := hostWrite_frame_of_not_idle (s := { s with inputs := rest }) hidle hwrite
    exact ⟨rej, rest, s.reads, rfl⟩
  · exact ⟨s.cmdRej, rest, _, rfl⟩
  · rw [sequencerStep_of_not_busy (s := { s with inputs := rest }) hbusy] at hseq
    cases hseq
    exact ⟨_, rest, _, rfl⟩
  · exact absurd hwait hbusy
  · exact ⟨s.cmdRej, rest, s.reads, rfl⟩
  · exact absurd ⟨taken, rest, hinputs⟩ hreset

/-! ## The way out -/

@[simp] theorem platformReset_runState (taken : Bool) (s : State) :
    (platformReset taken s).runState = .idle := by
  obtain ⟨out, h, -⟩ := platformReset_eq taken s
  simp [h]

@[simp] theorem platformReset_err (taken : Bool) (s : State) :
    (platformReset taken s).err = .none := by
  obtain ⟨out, h, -⟩ := platformReset_eq taken s
  simp [h]

/-- A reset turn is the platform's reset, in any state (70_reset_and_hazards.md R270). -/
theorem step_reset {s : State} {taken : Bool} {rest : List Input}
    (h : s.inputs = .reset taken :: rest) :
    step s = .next (platformReset taken { s with inputs := rest }) := by
  simp [step, turn, h]

end Sys2Proof.Machine
end

section
/-! PROOFS. The obligations about faults. -/

namespace Sys2Proof

open Sys2Proof.Machine

/-- Settles O27: ERRINFO is the fault record, an OR of disjoint fields. -/
theorem raiseWritesTheFaultRecord : Obligations.RaiseWritesTheFaultRecord :=
  fun _ aux s => ⟨rfl, faultRecord_fields aux s.count s.w⟩

/-- Settles O29: FAULT is neither BUSY, so the sequencer and WAIT do nothing, nor IDLE, so every
command word is rejected; a step that is no reset therefore keeps all but CMDREJ, the schedule and the
record of reads. -/
theorem faultIsAbsorbing : Obligations.FaultIsAbsorbing := by
  intro s hfault
  have hbusy : s.runState ≠ .busy := by simp [hfault]
  have hidle : s.runState ≠ .idle := by simp [hfault]
  refine ⟨sequencerStep_of_not_busy hbusy, hostWrite_zero_of_not_idle hidle,
    fun ra v h => hostWrite_of_ne_zero h v s, fun i => exec_rejected (.inl hidle), fun _ => rfl,
    fun rest h => step_wait_of_not_busy h hbusy, fun t hstep hreset => ?_, ?_,
    hardReset_runState s, hardReset_err s⟩
  · obtain ⟨rej, inputs, reads, rfl⟩ := step_frame_of_fault hfault hstep hreset
    exact ⟨hfault, rfl, rfl⟩
  · rintro ⟨taken, rest, hinputs⟩
    exact ⟨_, step_reset hinputs, platformReset_runState _ _, platformReset_err _ _⟩

end Sys2Proof
end

section
/-! SUPPORT. Reset (spec 70_reset_and_hazards.md, section 1): what the host reads from the reset state,
whatever state reset was applied to (R272). -/

namespace Sys2Proof.Machine

variable (s : State)

/-- A 0 packed at any bit is the word 0, so a packed word of 0s is 0. -/
theorem field_zero (n lo : Nat) : field 0#n lo = 0 := by
  simp [field]

/-- After reset the machine is IDLE with every flag clear, no fault and OP NOP, whose codes are all 0. -/
theorem status_hardReset : status (hardReset s) = 0 := by
  simp [status, RunState.bits, ErrCode.bits, Opcode.bits, field_zero]

/-- After reset PHASE is NONE, whose code is 0, and W, ROW and BYTE are 0. -/
theorem posWord_hardReset : posWord (hardReset s) = 0 := by
  simp [posWord, Phase.bits, field_zero]

/-- After reset every field of IDXR is 0. -/
theorem idxrWord_hardReset : idxrWord (hardReset s) = 0 := by
  simp [idxrWord, field_zero]

/-- Every row of H is 0 after reset. -/
theorem rowAt_hRows_hardReset {i : Nat} (h : i < 12) : rowAt (hardReset s).hRows i = 0 :=
  rowAt_replicate 0#24 i h

/-- Every index of the candidate is 0 after reset. -/
theorem idxAt_idx_hardReset (k : Nat) : idxAt (hardReset s).idx k = 0 := idxAt_zero k

/-- H0 to H11 read 0 after reset. -/
theorem hostRead_hRow_hardReset {i : Nat} (h : i < 12) :
    hostRead (hardReset s) (BitVec.ofNat 6 (0x20 + i)) = 0 := by
  rw [hostRead_hRow _ i h, ← rowAt_eq _ i h, rowAt_hRows_hardReset s h]
  rfl

end Sys2Proof.Machine
end

section
/-! PROOFS. The obligation about the reset state. -/

namespace Sys2Proof

open Sys2Proof.Machine

/-- Settles O30: the registers are the reset state's own fields, and what the host reads is packed from
fields that are all 0. -/
theorem resetStateValues : Obligations.ResetStateValues := by
  rintro s _ rfl
  exact ⟨hardReset_cfg s, fun _ h => rowAt_hRows_hardReset s h, hardReset_eReg s, hardReset_sReg s,
    hardReset_count s, hardReset_cand s, hardReset_runState s, hardReset_hValid s,
    hardReset_tableValid s, hardReset_outCommit s, hardReset_cmdRej s, hardReset_err s,
    hardReset_op s, hardReset_errInfo s, hardReset_phase s, hardReset_w s,
    fun k _ => idxAt_idx_hardReset s k, hardReset_row s, hardReset_byte s, hardReset_out s,
    (hostRead_status _).trans (status_hardReset s),
    (hostRead_errInfo _).trans (hardReset_errInfo s),
    (hostRead_pos _).trans (posWord_hardReset s), (hostRead_idxr _).trans (idxrWord_hardReset s),
    fun _ h => hostRead_hRow_hardReset s h⟩

end Sys2Proof
end

section
/-! SUPPORT. The assembler's lines (spec 30_encoding.md, section 6): an operand inside its width is
the number it was written as (R101). -/

namespace Sys2Proof

/-- SYND with an operand inside 24 bits is its match beside the operand (R93, R101). -/
theorem encode_assemble_synd {e : Nat} (h : e < 2 ^ 24) :
    (AsmLine.synd e).assemble.map encode = some (0x20000000#32 ||| BitVec.ofNat 32 e) := by
  have hwf : AsmLine.wf (.synd e) = true := decide_eq_true h
  have hword : (BitVec.ofNat 24 e).setWidth 32 = BitVec.ofNat 32 e := by
    apply BitVec.eq_of_toNat_eq
    simp only [BitVec.toNat_setWidth, BitVec.toNat_ofNat]
    omega
  rw [AsmLine.assemble, if_pos hwf, Option.map_some, encode_synd, hword]

/-- SYND with an operand of more than 24 bits is an assembly error (R101). -/
theorem assemble_synd_of_too_wide {e : Nat} (h : 2 ^ 24 ≤ e) : (AsmLine.synd e).assemble = none :=
  if_neg (by simpa [AsmLine.wf] using h)

/-- RDROW with an operand inside 12 bits is its match beside the operand (R93, R101). -/
theorem encode_assemble_rdrow {a : Nat} (h : a < 2 ^ 12) :
    (AsmLine.rdrow a).assemble.map encode = some (0x40000000#32 ||| BitVec.ofNat 32 a) := by
  have hwf : AsmLine.wf (.rdrow a) = true := decide_eq_true h
  have hword : (BitVec.ofNat 12 a).setWidth 32 = BitVec.ofNat 32 a := by
    apply BitVec.eq_of_toNat_eq
    simp only [BitVec.toNat_setWidth, BitVec.toNat_ofNat]
    omega
  rw [AsmLine.assemble, if_pos hwf, Option.map_some, encode_rdrow, hword]

/-- RDROW with an operand of more than 12 bits is an assembly error (R101). -/
theorem assemble_rdrow_of_too_wide {a : Nat} (h : 2 ^ 12 ≤ a) : (AsmLine.rdrow a).assemble = none :=
  if_neg (by simpa [AsmLine.wf] using h)

end Sys2Proof
end

section
/-! PROOFS. The obligations about whole command words and assembler lines. -/

namespace Sys2Proof

open Sys2Proof.Machine

/-- Settles O1: the legal words are exactly the encodings of the commands. -/
theorem decodeEncodeRoundTrip : Obligations.DecodeEncodeRoundTrip :=
  ⟨decode_encode, fun _ _ h => (decode_eq_ok_iff.mp h).symm⟩

/-- Settles O5: each word is evaluated. -/
theorem spelledWordsDecode : Obligations.SpelledWordsDecode := by
  unfold Obligations.SpelledWordsDecode
  decide

/-- Settles O6: the five lines without an operand are evaluated; an operand is kept when it fits and
refused when it does not. -/
theorem assemblerLinesHaveTheirWords : Obligations.AssemblerLinesHaveTheirWords :=
  ⟨rfl, rfl, rfl, rfl, rfl, fun _ => encode_assemble_synd, fun _ => assemble_synd_of_too_wide,
    fun _ => encode_assemble_rdrow, fun _ => assemble_rdrow_of_too_wide⟩

end Sys2Proof
end

section
/-! SUPPORT. The fields of STATUS (spec 10_state.md R37) and what ERR and STATE say of each other.
-/

namespace Sys2Proof.Machine

/-- A bit is a field one bit wide. -/
theorem getLsbD_eq_of_extractLsb' {w : Word} {j : Nat} {b : Bool}
    (h : w.extractLsb' j 1 = BitVec.ofBool b) : w.getLsbD j = b := by
  simpa using congrArg (·.getLsbD 0) h

/-- STATUS holds STATE, the four flags, ERR and OP at their bits, and 0 between and above them. -/
theorem status_fields (s : State) :
    (status s).extractLsb' 0 2 = s.runState.bits ∧
      (status s).extractLsb' 2 1 = BitVec.ofBool s.hValid ∧
      (status s).extractLsb' 3 1 = BitVec.ofBool s.tableValid ∧
      (status s).extractLsb' 4 1 = BitVec.ofBool s.outCommit ∧
      (status s).extractLsb' 5 1 = BitVec.ofBool s.cmdRej ∧
      (status s).extractLsb' 6 2 = 0 ∧ (status s).extractLsb' 8 3 = s.err.bits ∧
      (status s).extractLsb' 11 1 = BitVec.ofBool false ∧
      (status s).extractLsb' 12 4 = s.op.bits ∧ (status s).extractLsb' 16 16 = 0 := by
  refine ⟨?_, ?_, ?_, ?_, ?_, ?_, ?_, ?_, ?_, ?_⟩ <;>
    simp [status, BitVec.extractLsb'_or, extractLsb'_field_same, extractLsb'_field_disjoint]

/-- Only the code of no fault is 0 (R37). -/
theorem errCode_bits_eq_zero_iff {c : ErrCode} : c.bits = 0 ↔ c = .none := by
  cases c <;> decide

/-- The code of FAULT is 2 (R31). -/
theorem runState_bits_eq_two_iff {r : RunState} : r.bits = 2 ↔ r = .fault := by
  cases r <;> decide

/-- ERR names a fault exactly in FAULT (R37). -/
theorem err_ne_none_iff_fault {s : State} (h : ControlInv s) :
    s.err ≠ .none ↔ s.runState = .fault := by
  constructor
  · intro herr
    by_contra hrun
    exact herr (h.no_fault_err hrun).1
  · intro hrun
    obtain ⟨herr, -⟩ | ⟨herr, -⟩ | ⟨herr, -⟩ := h.fault_phase hrun <;> simp [herr]

end Sys2Proof.Machine
end

section
/-! PROOFS. The obligation about STATUS. -/

namespace Sys2Proof

open Sys2Proof.Machine

/-- Settles O11: STATUS is an OR of disjoint fields; only the code of no fault is 0, and 2 is the
code of FAULT alone. -/
theorem statusFields : Obligations.StatusFields := by
  intro s
  rw [show hostRead s 1 = status s from hostRead_status s]
  obtain ⟨hrun, hh, htable, hcommit, hrej, hlow, herr, hmid, hop, hhigh⟩ := status_fields s
  refine ⟨hrun.trans ?_, getLsbD_eq_of_extractLsb' hh, getLsbD_eq_of_extractLsb' htable,
    getLsbD_eq_of_extractLsb' hcommit, getLsbD_eq_of_extractLsb' hrej, hlow, herr.trans ?_,
    getLsbD_eq_of_extractLsb' hmid, hop.trans ?_, hhigh, fun hinv => ?_⟩
  · cases s.runState <;> rfl
  · cases s.err <;> rfl
  · cases s.op <;> rfl
  · rw [herr, hrun, ne_eq, errCode_bits_eq_zero_iff, runState_bits_eq_two_iff]
    exact err_ne_none_iff_fault hinv

end Sys2Proof
end

section
/-! SUPPORT. One step of the machine, said once by the turn it takes and by the phase it is in
(spec 44_batch_and_nop.md R226), and the frames of a command's write and of a phase's step: what the
obligations about single fields are derived from. -/

namespace Sys2Proof.Machine

/-! ## The first half of a SEARCH step, field by field -/

/-- The examination writes LEADER, FOUND, COUNT and CAND only (42_coset_leader_search.md R164). -/
theorem examine_eq (s : State) : examine s = { s with
    leader := (examine s).leader, found := (examine s).found, count := (examine s).count,
    cand := (examine s).cand } := by
  obtain ⟨-, h⟩ | ⟨-, h⟩ := examine_cases s
  · rw [h]
  · rw [h, recordLeader]

section Examine

variable (s : State)

@[simp] theorem examine_hRows : (examine s).hRows = s.hRows := by rw [examine_eq]
@[simp] theorem examine_eReg : (examine s).eReg = s.eReg := by rw [examine_eq]
@[simp] theorem examine_sReg : (examine s).sReg = s.sReg := by rw [examine_eq]
@[simp] theorem examine_cand : (examine s).cand = s.cand + 1 := (examine_frame s).1
@[simp] theorem examine_runState : (examine s).runState = s.runState := by rw [examine_eq]
@[simp] theorem examine_hValid : (examine s).hValid = s.hValid := by rw [examine_eq]
@[simp] theorem examine_tableValid : (examine s).tableValid = s.tableValid := by rw [examine_eq]
@[simp] theorem examine_outCommit : (examine s).outCommit = s.outCommit := by rw [examine_eq]
@[simp] theorem examine_cmdRej : (examine s).cmdRej = s.cmdRej := by rw [examine_eq]
@[simp] theorem examine_err : (examine s).err = s.err := by rw [examine_eq]
@[simp] theorem examine_op : (examine s).op = s.op := by rw [examine_eq]
@[simp] theorem examine_errInfo : (examine s).errInfo = s.errInfo := by rw [examine_eq]
@[simp] theorem examine_phase : (examine s).phase = s.phase := by rw [examine_eq]
@[simp] theorem examine_w : (examine s).w = s.w := by rw [examine_eq]
@[simp] theorem examine_idx : (examine s).idx = s.idx := by rw [examine_eq]
@[simp] theorem examine_row : (examine s).row = s.row := by rw [examine_eq]
@[simp] theorem examine_byte : (examine s).byte = s.byte := by rw [examine_eq]
@[simp] theorem examine_out : (examine s).out = s.out := by rw [examine_eq]
@[simp] theorem examine_inputs : (examine s).inputs = s.inputs := by rw [examine_eq]
@[simp] theorem examine_answers : (examine s).answers = s.answers := by rw [examine_eq]
@[simp] theorem examine_reads : (examine s).reads = s.reads := by rw [examine_eq]
@[simp] theorem examine_resets : (examine s).resets = s.resets := by rw [examine_eq]

end Examine

/-! ## The sequencer's step in BUSY -/

/-- `PhaseStep s t`: in BUSY the sequencer's step leads from s to t, one constructor for each way a
phase can go on. -/
inductive PhaseStep (s : State) : State → Prop
  /-- INIT on a G of rank below 12 (40_generator_and_parity_check.md R122). -/
  | initFault (hphase : s.phase = .init) (hrank : rank12 s.cfg.gRom < 12) :
      PhaseStep s (raise .constantIntegrity (BitVec.ofNat 14 (rank12 s.cfg.gRom)) s)
  /-- INIT's own end (R122, R224). -/
  | initDone (hphase : s.phase = .init) (hrank : 12 ≤ rank12 s.cfg.gRom) (hop : s.op ≠ .run) :
      PhaseStep s (toIdle { s with hRows := deriveH s.cfg.gRom, hValid := true })
  /-- RUN goes on from INIT to the search (R122, R224). -/
  | initChained (hphase : s.phase = .init) (hrank : 12 ≤ rank12 s.cfg.gRom) (hop : s.op = .run) :
      PhaseStep s (searchBegin { s with hRows := deriveH s.cfg.gRom, hValid := true })
  /-- SYND (41_syndrome.md R146). -/
  | synd (hphase : s.phase = .synd) :
      PhaseStep s (toIdle { s with sReg := syndrome s.hRows s.eReg })
  /-- RDROW (43_table_serializer.md R191). -/
  | rdrow (hphase : s.phase = .rdrow) : PhaseStep s (toIdle { s with eReg := leaderAt s s.sReg })
  /-- NOP (R220). -/
  | nop (hphase : s.phase = .nop) : PhaseStep s (toIdle s)
  /-- BUILD's search has found all 4096 syndromes (42_coset_leader_search.md R166, R224). -/
  | searchDone (u : State) (hu : u = examine s) (hphase : s.phase = .search)
      (hfull : u.count = 4096) (hop : s.op ≠ .run) :
      PhaseStep s (toIdle { u with tableValid := true })
  /-- RUN's search has, and the serialization begins (R166, R224). -/
  | searchChained (u : State) (hu : u = examine s) (hphase : s.phase = .search)
      (hfull : u.count = 4096) (hop : s.op = .run) :
      PhaseStep s (serialBegin { u with tableValid := true })
  /-- The search goes on with the class's next subset (R168). -/
  | searchNext (u : State) (hu : u = examine s) (idx : Vector (BitVec 5) 6)
      (hphase : s.phase = .search) (hmore : u.count ≠ 4096)
      (hnext : nextComb s.w s.idx = some idx) : PhaseStep s { u with idx := idx }
  /-- The search goes on with the next class (R170). -/
  | searchClass (u : State) (hu : u = examine s) (hphase : s.phase = .search)
      (hmore : u.count ≠ 4096) (hlast : nextComb s.w s.idx = none)
      (hbelow : s.w.toNat < s.cfg.wMax.val) :
      PhaseStep s { u with w := s.w + 1, idx := firstComb (s.w + 1) }
  /-- The search has reached its ceiling (R171). -/
  | searchFault (u : State) (hu : u = examine s) (hphase : s.phase = .search)
      (hmore : u.count ≠ 4096) (hlast : nextComb s.w s.idx = none)
      (hceiling : s.cfg.wMax.val ≤ s.w.toNat) : PhaseStep s (raise .searchIncomplete 0 u)
  /-- The sink has not answered (43_table_serializer.md R196). -/
  | serialWait (hphase : s.phase = .serial) (hanswers : s.answers = []) : PhaseStep s s
  /-- The sink has refused the byte (R203). -/
  | serialErr (rest : List SinkAnswer) (hphase : s.phase = .serial)
      (hanswers : s.answers = .err :: rest) : PhaseStep s
        (raise .persistence (BitVec.ofNat 14 (byteOffset s)) { s with answers := rest })
  /-- The sink has taken the last byte (R198). -/
  | serialLast (rest : List SinkAnswer) (hphase : s.phase = .serial)
      (hanswers : s.answers = .ok :: rest) (hrow : s.row = 4095) (hbyte : s.byte = 2) :
      PhaseStep s (toIdle { s with
        answers := rest, out := sinkAccept (sinkOffer s) s.out, outCommit := true })
  /-- The sink has taken the last byte of another row (R198). -/
  | serialRowEnd (rest : List SinkAnswer) (hphase : s.phase = .serial)
      (hanswers : s.answers = .ok :: rest) (hrow : s.row ≠ 4095) (hbyte : s.byte = 2) :
      PhaseStep s { s with
        answers := rest, out := sinkAccept (sinkOffer s) s.out, byte := 0, row := s.row + 1 }
  /-- The sink has taken a byte inside a row (R198). -/
  | serialInside (rest : List SinkAnswer) (hphase : s.phase = .serial)
      (hanswers : s.answers = .ok :: rest) (hbyte : s.byte ≠ 2) :
      PhaseStep s { s with
        answers := rest, out := sinkAccept (sinkOffer s) s.out, byte := s.byte + 1 }

/-- INIT's step, by the rank test and the command. -/
theorem phaseStep_initStep {s : State} (hphase : s.phase = .init) : PhaseStep s (initStep s) := by
  obtain hlt | hge := Nat.lt_or_ge (rank12 s.cfg.gRom) 12
  · rw [initStep_of_rank_lt hlt]
    exact .initFault hphase hlt
  · rw [initStep_of_rank_ge hge]
    by_cases hop : s.op = .run
    · rw [complete_of_run_init]
      exacts [.initChained hphase hge hop, hop, hphase]
    · rw [complete_of_not_chained]
      exacts [.initDone hphase hge hop, .inl hop]

/-- SEARCH's step, by COUNT after the recording, the successor, the ceiling and the command. -/
theorem phaseStep_searchStep {s : State} (hphase : s.phase = .search) :
    PhaseStep s (searchStep s) := by
  rw [searchStep]
  obtain ⟨hfull, -⟩ | ⟨hmore, idx, hnext, hadv⟩ | ⟨hmore, hlast, hbelow, hadv⟩ |
    ⟨hmore, hlast, hceiling, hadv⟩ := advance_cases (examine s)
  · by_cases hop : s.op = .run
    · rw [advance_of_full_run hfull ((examine_op s).trans hop) ((examine_phase s).trans hphase)]
      exact .searchChained _ rfl hphase hfull hop
    · rw [advance_of_full_not_run hfull (by rwa [examine_op])]
      exact .searchDone _ rfl hphase hfull hop
  · rw [hadv]
    exact .searchNext _ rfl idx hphase hmore (by simpa using hnext)
  · rw [hadv, examine_w]
    exact .searchClass _ rfl hphase hmore (by simpa using hlast) (by simpa using hbelow)
  · rw [hadv]
    exact .searchFault _ rfl hphase hmore (by simpa using hlast) (by simpa using hceiling)

/-- SERIAL's step, by the sink's answer and the place of the byte. -/
theorem phaseStep_serialStep {s : State} (hphase : s.phase = .serial) :
    PhaseStep s (serialStep s) := by
  obtain ⟨hanswers, h⟩ | ⟨rest, hanswers, h⟩ | ⟨rest, hanswers, ⟨hrow, hbyte, h⟩ |
    ⟨hrow, hbyte, h⟩ | ⟨hbyte, h⟩⟩ := serialStep_cases hphase <;> rw [h]
  · exact .serialWait hphase hanswers
  · exact .serialErr rest hphase hanswers
  · exact .serialLast rest hphase hanswers hrow hbyte
  · exact .serialRowEnd rest hphase hanswers hrow hbyte
  · exact .serialInside rest hphase hanswers hbyte

/-- Everything the sequencer's step can do in BUSY. -/
theorem phaseStep_of_sequencerStep {s t : State} (hbusy : s.runState = .busy)
    (h : sequencerStep s = .next t) : PhaseStep s t := by
  obtain ⟨hnot, -⟩ | ⟨-, ⟨hphase, rfl⟩ | ⟨hphase, rfl⟩ | ⟨hphase, rfl⟩ | ⟨hphase, rfl⟩ |
    ⟨hphase, rfl⟩ | ⟨hphase, rfl⟩⟩ := sequencerStep_cases h
  · exact absurd hbusy hnot
  · exact phaseStep_initStep hphase
  · rw [syndStep, complete_of_not_chained (.inr (by simp [hphase]))]
    exact .synd hphase
  · exact phaseStep_searchStep hphase
  · rw [rdrowStep, complete_of_not_chained (.inr (by simp [hphase]))]
    exact .rdrow hphase
  · exact phaseStep_serialStep hphase
  · rw [nopStep, complete_of_not_chained (.inr (by simp [hphase]))]
    exact .nop hphase

/-! ## The step of the whole machine -/

/-- `StepOutcome s t`: a step leads from s to t, one constructor for each kind of turn. -/
inductive StepOutcome (s : State) : State → Prop
  /-- A turn that changes nothing of the block but CMDREJ, and that only at a CMD write: a rejected
  or ineffective write, a read, a WAIT that is over, a sequencer's turn outside BUSY. -/
  | quiet (rej : Bool) (inputs : List Input) (reads : List (BitVec 6 × Word))
      (hrej : rej = s.cmdRej ∨ ∃ w rest, s.inputs = .write 0 w :: rest) :
      StepOutcome s { s with cmdRej := rej, inputs := inputs, reads := reads }
  /-- An accepted command (30_encoding.md R97, R98). -/
  | accepted (w : Word) (i : Instr) (rest : List Input) (hidle : s.runState = .idle)
      (hinputs : s.inputs = .write 0 w :: rest) (hdecode : decode w = .ok i)
      (hready : CommandReady i s) :
      StepOutcome s (furtherEffect i (acceptOp i.opcode { s with inputs := rest }))
  /-- The sequencer's step in BUSY (44_batch_and_nop.md R226). -/
  | sequenced (inputs : List Input) (t : State) (hturn : SequencerTurn s)
      (hphase : PhaseStep { s with inputs := inputs } t) : StepOutcome s t
  /-- The platform's reset (70_reset_and_hazards.md R270). -/
  | reset (out : List Byte) (inputs : List Input) (hturn : ResetTurn s) :
      StepOutcome s (hardReset { s with out := out, inputs := inputs })

/-- A precondition reads no field of the environment (30_encoding.md R99). -/
theorem commandReady_of_inputs {i : Instr} {s : State} {inputs : List Input} :
    CommandReady i { s with inputs := inputs } ↔ CommandReady i s := by
  cases i <;> rfl

/-- A command's write is quiet unless it is accepted. -/
theorem stepOutcome_of_exec {s t : State} {w : Word} {i : Instr} {rest : List Input}
    (hinputs : s.inputs = .write 0 w :: rest) (hdecode : decode w = .ok i)
    (h : exec i { s with inputs := rest } = .next t) : StepOutcome s t := by
  obtain ⟨hidle, hready, rfl⟩ | ⟨-, rfl⟩ := exec_cases h
  · rw [precond_eq_true_iff, commandReady_of_inputs] at hready
    exact .accepted w i rest hidle hinputs hdecode hready
  · exact .quiet true rest s.reads (.inr ⟨w, rest, hinputs⟩)

/-- A sequencer's turn is quiet outside BUSY. -/
theorem stepOutcome_of_sequencerStep {s t : State} {inputs : List Input}
    (hturn : s.runState = .busy → SequencerTurn s)
    (h : sequencerStep { s with inputs := inputs } = .next t) : StepOutcome s t := by
  by_cases hbusy : s.runState = .busy
  · exact .sequenced inputs t (hturn hbusy)
      (phaseStep_of_sequencerStep (s := { s with inputs := inputs }) hbusy h)
  · rw [sequencerStep_of_not_busy (s := { s with inputs := inputs }) hbusy] at h
    cases h
    exact .quiet s.cmdRej inputs s.reads (.inl rfl)

/-- Everything one step can do. -/
theorem stepOutcome_of_step {s t : State} (h : step s = .next t) : StepOutcome s t := by
  obtain ⟨hinputs, hseq⟩ | ⟨ra, v, rest, hinputs, hwrite⟩ | ⟨ra, rest, -, rfl⟩ |
    ⟨rest, hinputs, hseq⟩ | ⟨rest, hinputs, -, hseq⟩ | ⟨rest, -, -, rfl⟩ |
    ⟨taken, rest, hinputs, rfl⟩ := step_cases h
  · exact stepOutcome_of_sequencerStep (fun hbusy => ⟨hbusy, .inl hinputs⟩) hseq
  · obtain ⟨-, rfl⟩ | ⟨rfl, -, -, rfl⟩ | ⟨rfl, i, hdecode, hexec⟩ := hostWrite_cases hwrite
    · exact .quiet s.cmdRej rest s.reads (.inl rfl)
    · exact .quiet true rest s.reads (.inr ⟨v, rest, hinputs⟩)
    · exact stepOutcome_of_exec hinputs hdecode hexec
  · exact .quiet s.cmdRej rest _ (.inl rfl)
  · exact stepOutcome_of_sequencerStep (fun hbusy => ⟨hbusy, .inr (.inl ⟨rest, hinputs⟩)⟩) hseq
  · exact stepOutcome_of_sequencerStep (fun hbusy => ⟨hbusy, .inr (.inr ⟨rest, hinputs⟩)⟩) hseq
  · exact .quiet s.cmdRej rest s.reads (.inl rfl)
  · obtain ⟨out, hreset, -⟩ := platformReset_eq taken { s with inputs := rest }
    rw [hreset]
    exact .reset out rest ⟨taken, rest, hinputs⟩

end Sys2Proof.Machine
end

section
/-! PROOFS. The obligations about single turns and about the commands from their accept step to
their end. -/

namespace Sys2Proof

open Sys2Proof.Machine

/-- Settles O7: each clause is the branch of the turn that the schedule selects. -/
theorem stepRunsDecodedCommand : Obligations.StepRunsDecodedCommand := by
  refine ⟨fun s w i rest hinputs hdecode => ?_, fun s ra v rest hinputs => ?_,
    fun s ra rest hinputs => ?_, fun s hinputs => ?_, fun s rest hinputs => ?_,
    fun s rest hinputs hbusy => ?_, fun s rest hinputs hnot => step_wait_of_not_busy hinputs hnot,
    fun s taken rest hinputs => step_reset hinputs⟩
  · rw [← hostWrite_zero_of_ok hdecode]
    simp [step, turn, hinputs]
  · simp [step, turn, hinputs]
  · simp only [step, turn, hinputs]
    rfl
  · simp [step, turn, hinputs]
  · simp [step, turn, hinputs]
  · simp [step, turn, hinputs, hbusy]

/-- Settles O13: the NOP phase's step is `complete()`, which chains nothing. -/
theorem nopCompletes : Obligations.NopCompletes := by
  refine ⟨fun s hidle => ⟨_, exec_accepted (i := .nop) hidle trivial, rfl⟩, fun s hfault => ?_⟩
  exact exec_rejected (.inl (by simp [hfault]))

/-- Settles O14: the accept step leaves G, so the INIT step tests the same rank. -/
theorem initCompletes : Obligations.InitCompletes := by
  refine fun s hidle => ⟨_, exec_accepted (i := .init) hidle trivial, fun hge => ?_, fun hlt => ?_⟩
  · rw [sequencerStep_of_init rfl rfl, initStep_of_rank_ge, complete_of_not_chained]
    exacts [rfl, .inl nofun, hge]
  · rw [sequencerStep_of_init rfl rfl, initStep_of_rank_lt]
    exacts [rfl, hlt]

/-- Settles O15: the SYND step reads the E and the H that the accept step left. -/
theorem syndCompletes : Obligations.SyndCompletes := fun _ e hidle hvalid =>
  ⟨_, exec_accepted (i := .synd e) hidle hvalid, rfl⟩

/-- Settles O16: the RDROW step reads the cell at the S that the accept step left. -/
theorem rdrowCompletes : Obligations.RdrowCompletes := fun _ a hidle hvalid =>
  ⟨_, exec_accepted (i := .rdrow a) hidle hvalid, rfl⟩

/-- Settles O17: as INIT, but that `complete()` goes on to the search. -/
theorem runBeginsTheBatch : Obligations.RunBeginsTheBatch := by
  refine fun s hidle => ⟨_, exec_accepted (i := .run) hidle trivial, fun hge => ?_, fun hlt => ?_⟩
  · rw [sequencerStep_of_init rfl rfl, initStep_of_rank_ge, complete_of_run_init]
    exacts [rfl, rfl, rfl, hge]
  · rw [sequencerStep_of_init rfl rfl, initStep_of_rank_lt]
    exacts [rfl, hlt]

end Sys2Proof
end

section
/-! SUPPORT. Frames (spec 30_encoding.md section 5, 44_batch_and_nop.md): what a phase's step leaves
unchanged, when a step stops, and that RUN's steps are those of INIT, BUILD and SER but for OP. -/

namespace Sys2Proof.Machine

/-! ## Stops -/

/-- The sequencer stops exactly in BUSY with PHASE NONE. -/
theorem sequencerStep_eq_fault_iff {s : State} :
    sequencerStep s = .fault .noPhase ↔ s.runState = .busy ∧ s.phase = .none := by
  unfold sequencerStep
  cases s.runState with
  | idle => simp
  | fault => simp
  | busy => cases s.phase <;> simp

/-- Elsewhere the sequencer's turn has a next state. -/
theorem sequencerStep_next {s : State} (h : ¬ (s.runState = .busy ∧ s.phase = .none)) :
    ∃ t, sequencerStep s = .next t := by
  unfold sequencerStep
  cases hrun : s.runState with
  | idle => exact ⟨_, rfl⟩
  | fault => exact ⟨_, rfl⟩
  | busy =>
    cases hphase : s.phase with
    | none => exact absurd ⟨hrun, hphase⟩ h
    | _ => exact ⟨_, rfl⟩

/-- A host write always has a next state. -/
theorem hostWrite_next (ra : BitVec 6) (v : Word) (s : State) :
    ∃ t, hostWrite ra v s = .next t := by
  by_cases hra : ra = 0
  · rw [hra]
    cases hd : decode v with
    | error r => exact ⟨_, hostWrite_zero_of_error hd s⟩
    | ok i =>
      rw [hostWrite_zero_of_ok hd]
      exact exec_next i s
  · exact ⟨s, hostWrite_of_ne_zero hra v s⟩

/-- A step is the sequencer's, which stops only in PHASE NONE, or it has a next state. -/
theorem step_fault_or_next (s : State) :
    (SequencerTurn s ∧ s.phase = .none ∧ step s = .fault .noPhase) ∨
      (¬ (SequencerTurn s ∧ s.phase = .none) ∧ ∃ t, step s = .next t) := by
  by_cases h : SequencerTurn s ∧ s.phase = .none
  · obtain ⟨⟨hbusy, hinputs⟩, hphase⟩ := h
    refine .inl ⟨⟨hbusy, hinputs⟩, hphase, ?_⟩
    obtain hnil | ⟨rest, hrun⟩ | ⟨rest, hwait⟩ := hinputs
    · simpa [step, turn, hnil] using sequencerStep_eq_fault_iff.mpr ⟨hbusy, hphase⟩
    · rw [step, turn, hrun]
      exact sequencerStep_eq_fault_iff.mpr ⟨hbusy, hphase⟩
    · simpa [step, turn, hwait, hbusy] using sequencerStep_eq_fault_iff.mpr ⟨hbusy, hphase⟩
  · refine .inr ⟨h, ?_⟩
    have hnot (hturn : s.runState = .busy → SequencerTurn s) :
        ¬ (s.runState = .busy ∧ s.phase = .none) := fun ⟨hbusy, hphase⟩ =>
      h ⟨hturn hbusy, hphase⟩
    unfold step turn
    split
    next hinputs => exact sequencerStep_next (hnot fun hbusy => ⟨hbusy, .inl hinputs⟩)
    next => exact hostWrite_next _ _ _
    next => exact ⟨_, rfl⟩
    next rest hinputs =>
      exact sequencerStep_next (hnot fun hbusy => ⟨hbusy, .inr (.inl ⟨rest, hinputs⟩)⟩ :)
    next rest hinputs =>
      split
      · exact sequencerStep_next (hnot fun hbusy => ⟨hbusy, .inr (.inr ⟨rest, hinputs⟩)⟩)
      · exact ⟨_, rfl⟩
    next => exact ⟨_, rfl⟩

/-! ## RUN beside the single-phase commands -/

/-- The examination does not read OP. -/
theorem examine_withOp {s u : State} (hu : examine s = u) (op : Opcode) :
    examine { s with op := op } = { u with op := op } := by
  cases hfound : foundAt s (syndrome s.hRows (pattern s.w s.idx)) with
  | true =>
    rw [← hu, examine_of_found hfound]
    exact examine_of_found (s := { s with op := op }) hfound
  | false =>
    rw [← hu, examine_of_not_found hfound]
    exact examine_of_not_found (s := { s with op := op }) hfound

/-- Short of the 4096th syndrome the second half of a SEARCH step does not read OP. -/
theorem advance_withOp {s t : State} (ht : advance s = t) (h : s.count ≠ 4096) (op : Opcode) :
    advance { s with op := op } = { t with op := op } := by
  obtain ⟨hfull, -⟩ | ⟨-, idx, hnext, hadv⟩ | ⟨-, hlast, hbelow, hadv⟩ |
    ⟨-, hlast, hceiling, hadv⟩ := advance_cases s
  · exact absurd hfull h
  all_goals rw [← ht, hadv]
  · exact advance_of_successor (s := { s with op := op }) h hnext
  · exact advance_of_class_done (s := { s with op := op }) h hlast hbelow
  · exact advance_of_ceiling (s := { s with op := op }) h hlast hceiling

/-- A SERIAL step does not read OP: its end is the command's end for RUN too (R224). -/
theorem serialStep_withOp {s t : State} (ht : serialStep s = t) (hphase : s.phase = .serial)
    (op : Opcode) : serialStep { s with op := op } = { t with op := op } := by
  obtain ⟨hanswers, h⟩ | ⟨rest, hanswers, h⟩ | ⟨rest, hanswers, ⟨hrow, hbyte, h⟩ |
    ⟨hrow, hbyte, h⟩ | ⟨hbyte, h⟩⟩ := serialStep_cases hphase
  all_goals rw [← ht, h]
  · exact serialStep_of_no_answer (s := { s with op := op }) hanswers
  · exact serialStep_of_err (s := { s with op := op }) hanswers
  · exact serialStep_of_ok_last (s := { s with op := op }) hanswers hphase hrow hbyte
  · exact serialStep_of_ok_row_end (s := { s with op := op }) hanswers hrow hbyte
  · exact serialStep_of_ok_row_inside (s := { s with op := op }) hanswers hbyte

/-- RUN in INIT: the same fault, or the state after INIT and then BUILD's accept step (R222). -/
theorem run_of_init {s t : State} (hbusy : s.runState = .busy) (hphase : s.phase = .init)
    (hop : s.op = .init) (hstep : sequencerStep s = .next t) :
    (t.runState = .fault → sequencerStep { s with op := .run } = .next { t with op := .run }) ∧
    (t.runState ≠ .fault → t.runState = .idle ∧ ∃ u, exec .build t = .next u ∧ u.op = .build ∧
      sequencerStep { s with op := .run } = .next { u with op := .run, cmdRej := s.cmdRej }) := by
  have hrun : sequencerStep { s with op := .run } = .next (initStep { s with op := .run }) :=
    sequencerStep_of_init hbusy hphase
  rw [sequencerStep_of_init hbusy hphase] at hstep
  cases hstep
  rw [hrun]
  obtain hlt | hge := Nat.lt_or_ge (rank12 s.cfg.gRom) 12
  · rw [initStep_of_rank_lt hlt, initStep_of_rank_lt]
    exacts [⟨fun _ => rfl, fun hne => absurd rfl hne⟩, hlt]
  · have hend : initStep s = toIdle { s with hRows := deriveH s.cfg.gRom, hValid := true } := by
      rw [initStep_of_rank_ge hge, complete_of_not_chained]
      exact .inl (by simp [hop])
    have hchain : initStep { s with op := .run } = searchBegin { s with
        op := .run, hRows := deriveH s.cfg.gRom, hValid := true } := by
      rw [initStep_of_rank_ge, complete_of_run_init]
      exacts [rfl, hphase, hge]
    rw [hend, hchain]
    refine ⟨nofun, fun _ => ⟨rfl, _, exec_accepted (i := .build) rfl rfl, rfl, ?_⟩⟩
    simp [furtherEffect, searchBegin, acceptOp, toIdle, hbusy]

/-- RUN in SEARCH: the same step, or the state after BUILD and then SER's accept step (R222). -/
theorem run_of_search {s t : State} (hbusy : s.runState = .busy) (hphase : s.phase = .search)
    (hop : s.op = .build) (hstep : sequencerStep s = .next t) :
    (t.runState ≠ .idle → sequencerStep { s with op := .run } = .next { t with op := .run }) ∧
    (t.runState = .idle → ∃ u, exec .ser t = .next u ∧ u.op = .ser ∧
      sequencerStep { s with op := .run } = .next { u with op := .run, cmdRej := s.cmdRej }) := by
  have hrun : sequencerStep { s with op := .run } = .next (searchStep { s with op := .run }) :=
    sequencerStep_of_search hbusy hphase
  rw [sequencerStep_of_search hbusy hphase] at hstep
  cases hstep
  obtain ⟨u, hu⟩ : ∃ u, examine s = u := ⟨_, rfl⟩
  have hbusyU : u.runState = .busy := by rw [← hu, examine_runState, hbusy]
  have hphaseU : u.phase = .search := by rw [← hu, examine_phase, hphase]
  have hopU : u.op = .build := by rw [← hu, examine_op, hop]
  have hrejU : u.cmdRej = s.cmdRej := by rw [← hu, examine_cmdRej]
  rw [hrun, searchStep, hu, searchStep, examine_withOp hu]
  by_cases hfull : u.count = 4096
  · have hend : advance u = toIdle { u with tableValid := true } :=
      advance_of_full_not_run hfull (by simp [hopU])
    have hchain : advance { u with op := .run } =
        serialBegin { u with op := .run, tableValid := true } :=
      advance_of_full_run (s := { u with op := .run }) hfull rfl hphaseU
    rw [hend, hchain]
    refine ⟨fun hne => absurd rfl hne, fun _ => ⟨_, exec_accepted (i := .ser) rfl rfl, rfl, ?_⟩⟩
    simp [furtherEffect, serialBegin, acceptOp, toIdle, hbusyU, hrejU]
  · refine ⟨fun _ => congrArg _ (advance_withOp rfl hfull .run), fun hidle => absurd hidle ?_⟩
    obtain ⟨hcount, -⟩ | ⟨-, idx, -, hadv⟩ | ⟨-, -, -, hadv⟩ | ⟨-, -, -, hadv⟩ := advance_cases u
    · exact absurd hcount hfull
    all_goals simp [hadv, hbusyU]

/-- RUN in SERIAL: the same step. -/
theorem run_of_serial {s t : State} (hbusy : s.runState = .busy) (hphase : s.phase = .serial)
    (hstep : sequencerStep s = .next t) :
    sequencerStep { s with op := .run } = .next { t with op := .run } := by
  rw [sequencerStep_of_serial hbusy hphase] at hstep
  cases hstep
  rw [← serialStep_withOp rfl hphase]
  exact sequencerStep_of_serial hbusy hphase

end Sys2Proof.Machine
end

section
/-! PROOFS. The obligations about frames, stops and RUN. -/

namespace Sys2Proof

open Sys2Proof.Machine

/-- Settles O37: a rejected command changes CMDREJ alone, an accepted one has its own further
effect. -/
theorem commandFrame : Obligations.CommandFrame := by
  intro i s t h
  obtain ⟨-, -, rfl⟩ | ⟨-, rfl⟩ := exec_cases h
  · cases i <;> simp [furtherEffect, leaderAt]
  · simp [leaderAt]

/-- Settles O38: read off each way a phase can go on. -/
theorem phaseStepFrame : Obligations.PhaseStepFrame := by
  intro s t hbusy hstep
  cases phaseStep_of_sequencerStep hbusy hstep
  all_goals simp [leaderAt, *]

/-- Settles O39: a turn is the sequencer's in BUSY with PHASE NONE and stops, or has a next state. -/
theorem onlyStopIsNoPhase : Obligations.OnlyStopIsNoPhase := by
  intro s
  obtain ⟨hturn, hphase, hstop⟩ | ⟨hnot, t, hnext⟩ := step_fault_or_next s
  · refine ⟨by simp [hstop], by simp [hstop, hturn, hphase], fun hinv => ?_⟩
    exact absurd hphase (hinv.busy_phase hturn.1)
  · exact ⟨by simp [hnext], by simp [hnext, hnot], fun _ => ⟨t, hnext⟩⟩

/-- Settles O28: the steps of the three phases do not read OP, but for `complete()`, which under RUN
is the next command's further effect. -/
theorem runDoesInitThenBuildThenSer : Obligations.RunDoesInitThenBuildThenSer :=
  ⟨fun _ _ => run_of_init, fun _ _ => run_of_search,
    fun _ _ hbusy hphase _ => run_of_serial hbusy hphase⟩

end Sys2Proof
end

section
/-! SUPPORT. The writers of single fields (spec 10_state.md sections 2, 4 and 6): for each field,
the ways a phase's step can change it and the commands whose acceptance changes it. -/

namespace Sys2Proof.Machine

/-! ## What a phase's step writes -/

section PhaseWriters

variable {s t : State} (h : PhaseStep s t)

include h

/-- Only INIT writes H (R21). -/
theorem PhaseStep.hRows_cases : t.hRows = s.hRows ∨
    (s.phase = .init ∧ t.hRows = deriveH s.cfg.gRom ∧ t.hValid = true) := by
  cases h <;> simp [*]

/-- Only RDROW's step writes E (R22). -/
theorem PhaseStep.eReg_cases : t.eReg = s.eReg ∨
    (s.phase = .rdrow ∧ t.eReg = leaderAt s s.sReg) := by
  cases h <;> simp [*]

/-- Only SYND's step writes S (R23). -/
theorem PhaseStep.sReg_cases : t.sReg = s.sReg ∨
    (s.phase = .synd ∧ t.sReg = syndrome s.hRows s.eReg) := by
  cases h <;> simp [*]

/-- Only INIT on a G of rank 12 writes H_VALID (R32). -/
theorem PhaseStep.hValid_cases : t.hValid = s.hValid ∨
    (s.phase = .init ∧ 12 ≤ rank12 s.cfg.gRom ∧ t.hValid = true) := by
  cases h <;> simp [*]

/-- TABLE_VALID is set at the 4096th syndrome and cleared where a search begins (R32). -/
theorem PhaseStep.tableValid_cases : t.tableValid = s.tableValid ∨
    (s.phase = .search ∧ t.count = 4096 ∧ t.tableValid = true) ∨
    (t.tableValid = false ∧ t.phase = .search ∧ t.count = 0 ∧ t.cand = 0 ∧
      ∀ a, foundAt t a = false) := by
  cases h <;> simp_all

/-- OUT_COMMIT is set by the last byte and cleared where a serialization begins (R33). -/
theorem PhaseStep.outCommit_cases : t.outCommit = s.outCommit ∨
    (s.phase = .serial ∧ s.row = 4095 ∧ s.byte = 2 ∧ s.answers = .ok :: t.answers ∧
      t.outCommit = true) ∨
    (t.outCommit = false ∧ t.phase = .serial ∧ t.row = 0 ∧ t.byte = 0) := by
  cases h <;> simp [*]

/-- The sequencer's step in BUSY stays there, ends the command or faults, in the same command (R31).
-/
theorem PhaseStep.runState_cases (hbusy : s.runState = .busy) : t.runState = .busy ∨
    (t.runState = .idle ∧ t.phase = .none) ∨
    (t.runState = .fault ∧ t.phase = s.phase ∧ t.op = s.op) := by
  cases h <;> simp [*]

/-- Outside SEARCH no phase writes LEADER, and FOUND and CAND are only cleared, where a search
begins at weight 0 (R41, R47, R48). -/
theorem PhaseStep.table_of_not_search (hphase : s.phase ≠ .search) :
    t.leader = s.leader ∧ t.resets = s.resets ∧
      ((t.phase ≠ .search ∧ t.found = s.found ∧ t.cand = s.cand) ∨
        (t.phase = .search ∧ t.found = 0 ∧ t.cand = 0 ∧ t.w = 0)) := by
  cases h <;> simp_all

/-- Outside SERIAL no phase writes OUT (R51). -/
theorem PhaseStep.out_of_not_serial (hphase : s.phase ≠ .serial) : t.out = s.out := by
  cases h <;> simp_all

end PhaseWriters

/-- No phase's step writes CMDREJ (R34). -/
theorem PhaseStep.cmdRej {s t : State} (h : PhaseStep s t) : t.cmdRej = s.cmdRej := by
  cases h <;> simp [*]

/-- No phase's step writes the constants of the build (R20, R44). -/
theorem PhaseStep.cfg {s t : State} (h : PhaseStep s t) : t.cfg = s.cfg := by
  cases h <;> simp [*]

/-! ## What an accepted command writes -/

section CommandWriters

variable (i : Instr) (s : State)

@[simp] theorem furtherEffect_hRows : (furtherEffect i s).hRows = s.hRows := by cases i <;> rfl
@[simp] theorem furtherEffect_hValid : (furtherEffect i s).hValid = s.hValid := by cases i <;> rfl
@[simp] theorem furtherEffect_leader : (furtherEffect i s).leader = s.leader := by cases i <;> rfl
@[simp] theorem furtherEffect_resets : (furtherEffect i s).resets = s.resets := by cases i <;> rfl
@[simp] theorem furtherEffect_out : (furtherEffect i s).out = s.out := by cases i <;> rfl
@[simp] theorem furtherEffect_runState : (furtherEffect i s).runState = s.runState :=
  (furtherEffect_control i s).2.2
@[simp] theorem furtherEffect_op : (furtherEffect i s).op = s.op := (furtherEffect_control i s).2.1

/-- Only SYND writes E (30_encoding.md R98). -/
theorem furtherEffect_eReg_cases : (furtherEffect i s).eReg = s.eReg ∨
    ∃ e, i = .synd e ∧ (furtherEffect i s).eReg = e := by
  cases i <;> simp [furtherEffect]

/-- Only RDROW writes S (R98). -/
theorem furtherEffect_sReg_cases : (furtherEffect i s).sReg = s.sReg ∨
    ∃ a, i = .rdrow a ∧ (furtherEffect i s).sReg = a := by
  cases i <;> simp [furtherEffect]

/-- Only the beginning of a search writes TABLE_VALID and FOUND (42_coset_leader_search.md R162). -/
theorem furtherEffect_table_cases :
    ((furtherEffect i s).tableValid = s.tableValid ∧ (furtherEffect i s).found = s.found) ∨
      furtherEffect i s = searchBegin s := by
  cases i <;> simp [furtherEffect]

/-- Only the beginning of a serialization writes OUT_COMMIT (43_table_serializer.md R194). -/
theorem furtherEffect_outCommit_cases :
    (furtherEffect i s).outCommit = s.outCommit ∨ furtherEffect i s = serialBegin s := by
  cases i <;> simp [furtherEffect]

end CommandWriters

/-! ## What a step that is no reset writes to the flags -/

section StepWriters

variable {s t : State} (h : StepOutcome s t) (hreset : ¬ ResetTurn s)

include h hreset

theorem StepOutcome.hValid_cases : t.hValid = s.hValid ∨
    (SequencerTurn s ∧ s.phase = .init ∧ 12 ≤ rank12 s.cfg.gRom ∧ t.hValid = true) := by
  cases h with
  | quiet => exact .inl rfl
  | accepted => exact .inl (by simp)
  | sequenced _ _ hturn hphase => exact hphase.hValid_cases.imp id fun hinit => ⟨hturn, hinit⟩
  | reset _ _ hturn => exact absurd hturn hreset

theorem StepOutcome.tableValid_cases : t.tableValid = s.tableValid ∨
    (SequencerTurn s ∧ s.phase = .search ∧ t.count = 4096 ∧ t.tableValid = true) ∨
    (t.tableValid = false ∧ t.phase = .search ∧ t.count = 0 ∧ t.cand = 0 ∧
      ∀ a, foundAt t a = false) := by
  cases h with
  | quiet => exact .inl rfl
  | accepted w i rest =>
    obtain ⟨htable, -⟩ | hbegin :=
      furtherEffect_table_cases i (acceptOp i.opcode { s with inputs := rest })
    · exact .inl htable
    · exact .inr (.inr (by simp [hbegin]))
  | sequenced _ _ hturn hphase =>
    exact hphase.tableValid_cases.imp id (Or.imp_left fun hfull => ⟨hturn, hfull⟩)
  | reset _ _ hturn => exact absurd hturn hreset

theorem StepOutcome.outCommit_cases : t.outCommit = s.outCommit ∨
    (SequencerTurn s ∧ s.phase = .serial ∧ s.row = 4095 ∧ s.byte = 2 ∧
      s.answers = .ok :: t.answers ∧ t.outCommit = true) ∨
    (t.outCommit = false ∧ t.phase = .serial ∧ t.row = 0 ∧ t.byte = 0) := by
  cases h with
  | quiet => exact .inl rfl
  | accepted w i rest =>
    obtain hcommit | hbegin :=
      furtherEffect_outCommit_cases i (acceptOp i.opcode { s with inputs := rest })
    · exact .inl hcommit
    · exact .inr (.inr (by simp [hbegin]))
  | sequenced _ _ hturn hphase =>
    exact hphase.outCommit_cases.imp id (Or.imp_left fun hlast => ⟨hturn, hlast⟩)
  | reset _ _ hturn => exact absurd hturn hreset

theorem StepOutcome.cmdRej_cases :
    t.cmdRej = s.cmdRej ∨ ∃ w rest, s.inputs = .write 0 w :: rest := by
  cases h with
  | quiet _ _ _ hrej => exact hrej
  | accepted w i rest _ hinputs => exact .inr ⟨w, rest, hinputs⟩
  | sequenced _ _ _ hphase => exact .inl hphase.cmdRej
  | reset _ _ hturn => exact absurd hturn hreset

end StepWriters

/-! ## Reset -/

/-- Without a pending byte that is taken, a reset leaves OUT (70_reset_and_hazards.md R276). -/
theorem platformReset_of_not_taken {taken : Bool} {s : State}
    (h : taken = false ∨ s.runState ≠ .busy ∨ s.phase ≠ .serial) :
    platformReset taken s = hardReset s := by
  apply if_neg
  rintro ⟨rfl, hbusy, hphase⟩
  simp [hbusy, hphase] at h

/-- A pending byte that the sink takes goes to OUT (R276). -/
theorem platformReset_of_taken {s : State} (hbusy : s.runState = .busy)
    (hphase : s.phase = .serial) :
    platformReset true s = hardReset { s with out := sinkAccept (sinkOffer s) s.out } :=
  if_pos ⟨rfl, hbusy, hphase⟩

end Sys2Proof.Machine
end

section
/-! PROOFS. The obligations about the writers of single fields. -/

namespace Sys2Proof

open Sys2Proof.Machine

/-- Settles O31: the platform's two resets, with the pending byte spelled out. -/
theorem resetTurnInAnyState : Obligations.ResetTurnInAnyState := by
  refine fun s taken rest hinputs =>
    ⟨_, step_reset hinputs, fun hnot => ?_, fun htaken hbusy hphase => ?_⟩
  · exact platformReset_of_not_taken (s := { s with inputs := rest }) hnot
  · rw [htaken, platformReset_of_taken (s := { s with inputs := rest }) hbusy hphase,
      sinkAccept_sinkOffer]
    rfl

/-- Settles O32: H is written by a reset or by INIT, which writes the H that a valid H already is.
-/
theorem constantsAndHStay : Obligations.ConstantsAndHStay := by
  intro s t hstep
  have hwriters : t.hRows = s.hRows ∨ ResetTurn s ∨
      (SequencerTurn s ∧ s.phase = .init ∧ t.hRows = deriveH s.cfg.gRom ∧ t.hValid = true) := by
    cases stepOutcome_of_step hstep with
    | quiet => exact .inl rfl
    | accepted => exact .inl (by simp)
    | sequenced _ _ hturn hphase =>
      exact hphase.hRows_cases.imp id fun hinit => .inr ⟨hturn, hinit⟩
    | reset _ _ hturn => exact .inr (.inl hturn)
  refine ⟨step_cfg hstep, hwriters.resolve_left, fun hinv hvalid hreset => ?_⟩
  obtain hsame | hturn | ⟨-, -, hderived, -⟩ := hwriters
  · exact hsame
  · exact absurd hturn hreset
  · rw [hderived, hinv.h_derived hvalid]

/-- Settles O33: each register has one command that latches it and one phase that writes it. -/
theorem writersOfEAndS : Obligations.WritersOfEAndS := by
  intro s t hstep hreset
  cases stepOutcome_of_step hstep with
  | quiet => exact ⟨fun hne => absurd rfl hne, fun hne => absurd rfl hne⟩
  | accepted w i rest _ hinputs hdecode =>
    constructor
    · intro hne
      obtain ⟨e, rfl, he⟩ := (furtherEffect_eReg_cases i _).resolve_left hne
      exact .inl ⟨w, e, rest, hinputs, hdecode, he⟩
    · intro hne
      obtain ⟨a, rfl, ha⟩ := (furtherEffect_sReg_cases i _).resolve_left hne
      exact .inl ⟨w, a, rest, hinputs, hdecode, ha⟩
  | sequenced inputs _ hturn hphase =>
    exact ⟨fun hne => .inr ⟨hturn, hphase.eReg_cases.resolve_left hne⟩,
      fun hne => .inr ⟨hturn, hphase.sReg_cases.resolve_left hne⟩⟩
  | reset _ _ hturn => exact absurd hturn hreset

/-- Settles O34: each flag by its writers. -/
theorem writersOfFlags : Obligations.WritersOfFlags := by
  intro s t hstep hreset
  have hout := stepOutcome_of_step hstep
  have hvalid := hout.hValid_cases hreset
  have htable := hout.tableValid_cases hreset
  have hcommit := hout.outCommit_cases hreset
  refine ⟨fun hon => ?_, fun hoff hon => ?_, fun hoff hon => ?_, fun hon hoff => ?_,
    fun hoff hon => ?_, fun hon hoff => ?_, (hout.cmdRej_cases hreset).resolve_left⟩
  · obtain hsame | ⟨-, -, -, hset⟩ := hvalid
    · rw [hsame, hon]
    · exact hset
  · obtain hsame | ⟨hturn, hinit, hrank, -⟩ := hvalid
    · simp [hsame, hoff] at hon
    · exact ⟨hturn, hinit, hrank⟩
  · obtain hsame | ⟨hturn, hsearch, hcount, -⟩ | ⟨hclear, -⟩ := htable
    · simp [hsame, hoff] at hon
    · exact ⟨hturn, hsearch, hcount⟩
    · simp [hclear] at hon
  · obtain hsame | ⟨-, -, -, hset⟩ | ⟨-, hbegun⟩ := htable
    · simp [hsame, hon] at hoff
    · simp [hset] at hoff
    · exact hbegun
  · obtain hsame | ⟨hturn, hserial, hrow, hbyte, hanswers, -⟩ | ⟨hclear, -⟩ := hcommit
    · simp [hsame, hoff] at hon
    · exact ⟨hturn, hserial, hrow, hbyte, hanswers⟩
    · simp [hclear] at hon
  · obtain hsame | ⟨-, -, -, -, -, hset⟩ | ⟨-, hbegun⟩ := hcommit
    · simp [hsame, hon] at hoff
    · simp [hset] at hoff
    · exact hbegun

/-- Settles O35: only an accepted command leaves IDLE, only the sequencer leaves BUSY, nothing but a
reset leaves FAULT. -/
theorem transitionsOfState : Obligations.TransitionsOfState := by
  intro s t hstep hreset
  refine ⟨fun hidle => ?_, fun hbusy => ?_, fun hfault => ?_⟩
  · cases stepOutcome_of_step hstep with
    | quiet => exact .inl hidle
    | accepted w i rest _ hinputs hdecode hready =>
      exact .inr ⟨by simp, w, i, rest, hinputs, hdecode, hready, by simp⟩
    | sequenced _ _ hturn => simp [SequencerTurn, hidle] at hturn
    | reset _ _ hturn => exact absurd hturn hreset
  · cases stepOutcome_of_step hstep with
    | quiet => exact .inl hbusy
    | accepted _ _ _ hidle => simp [hbusy] at hidle
    | sequenced _ _ hturn hphase =>
      obtain hstay | ⟨hidle, hnone⟩ | ⟨hfault, hkept⟩ := hphase.runState_cases hbusy
      · exact .inl hstay
      · exact .inr (.inl ⟨hidle, hturn, hnone⟩)
      · exact .inr (.inr ⟨hfault, hturn, hkept⟩)
    | reset _ _ hturn => exact absurd hturn hreset
  · obtain ⟨rej, inputs, reads, rfl⟩ := step_frame_of_fault hfault hstep hreset
    exact ⟨hfault, rfl⟩

/-- Settles O36: LEADER has the SEARCH step as its one writer, OUT the SERIAL step; FOUND is also
cleared where a search begins. -/
theorem writersOfMemories : Obligations.WritersOfMemories := by
  intro s t hstep hreset
  cases stepOutcome_of_step hstep with
  | quiet => exact ⟨fun _ => ⟨rfl, fun _ => rfl, .inl fun _ => rfl⟩, fun _ => rfl⟩
  | accepted w i rest =>
    refine ⟨fun _ => ⟨by simp, leaderAt_congr (by simp) (by simp), ?_⟩, fun _ => by simp⟩
    obtain ⟨-, hfound⟩ | hbegin :=
      furtherEffect_table_cases i (acceptOp i.opcode { s with inputs := rest })
    · exact .inl (foundAt_congr hfound)
    · exact .inr (by simp [hbegin])
  | sequenced inputs _ hturn hphase =>
    refine ⟨fun hnot => ?_,
      fun hnot => hphase.out_of_not_serial fun hserial => hnot ⟨hturn, hserial⟩⟩
    obtain ⟨hleader, hresets, hfound⟩ :=
      hphase.table_of_not_search fun hsearch => hnot ⟨hturn, hsearch⟩
    refine ⟨hleader, leaderAt_congr hleader hresets, ?_⟩
    obtain ⟨-, hsame, -⟩ | ⟨hsearch, hclear, -⟩ := hfound
    · exact .inl (foundAt_congr hsame)
    · exact .inr ⟨by simp [foundAt, hclear], hsearch⟩
  | reset _ _ hturn => exact absurd hturn hreset

end Sys2Proof
end

section
/-! SUPPORT. The enumeration of the search (spec 42_coset_leader_search.md section 4):
CandidateBefore is a strict linear order on patterns, which on the W-subsets of one class compares
index tuples; `next_comb` gives the very next tuple (R168) and `firstComb` the least one (R170). -/

namespace Sys2Proof.Machine

/-! ## The order of the candidates -/

/-- A word is determined by its set positions. -/
theorem positions_injective {n : Nat} : Function.Injective (positions (n := n)) := by
  intro a b h
  refine BitVec.eq_of_getLsbD_eq fun j hj => Bool.eq_iff_iff.mpr ?_
  have hmem : j ∈ positions a ↔ j ∈ positions b := by rw [h]
  simpa [mem_positions, hj] using hmem

theorem candidateBefore_irrefl (a : Pattern) : ¬ CandidateBefore a a := by
  rintro (hweight | ⟨-, hlex⟩)
  · exact lt_irrefl _ hweight
  · exact lt_irrefl _ hlex

theorem candidateBefore_trans {a b c : Pattern} (hab : CandidateBefore a b)
    (hbc : CandidateBefore b c) : CandidateBefore a c := by
  obtain hab | ⟨heq, hab⟩ := hab
  · obtain hbc | ⟨heq, -⟩ := hbc
    · exact .inl (hab.trans hbc)
    · exact .inl (heq ▸ hab)
  · obtain hbc | ⟨heq', hbc⟩ := hbc
    · exact .inl (heq ▸ hbc)
    · exact .inr ⟨heq.trans heq', lt_trans hab hbc⟩

theorem candidateBefore_asymm {a b : Pattern} (hab : CandidateBefore a b) :
    ¬ CandidateBefore b a := fun hba =>
  candidateBefore_irrefl a (candidateBefore_trans hab hba)

theorem candidateBefore_trichotomy (a b : Pattern) :
    CandidateBefore a b ∨ a = b ∨ CandidateBefore b a := by
  obtain hlt | heq | hgt := Nat.lt_trichotomy (weight a) (weight b)
  · exact .inl (.inl hlt)
  · obtain hlt | hsame | hgt := lt_trichotomy (positions a) (positions b)
    · exact .inl (.inr ⟨heq, hlt⟩)
    · exact .inr (.inl (positions_injective hsame))
    · exact .inr (.inr (.inr ⟨heq.symm, hgt⟩))
  · exact .inr (.inr (.inl hgt))

/-! ## Index tuples -/

/-- The lexicographic order of the first w entries of two tuples (R167). -/
def LexBefore (w : Nat) (a b : Vector (BitVec 5) 6) : Prop :=
  ∃ m < w, (∀ j < m, idxAt a j = idxAt b j) ∧ idxAt a m < idxAt b m

section Combs

variable {w : BitVec 3} {a b : Vector (BitVec 5) 6}

/-- Within a class the order of the patterns is that of the tuples. -/
theorem candidateBefore_pattern_iff (ha : ValidComb w a) (hb : ValidComb w b) :
    CandidateBefore (pattern w a) (pattern w b) ↔ LexBefore w.toNat a b := by
  simp [CandidateBefore, LexBefore, weight_pattern ha, weight_pattern hb, positions_pattern ha,
    positions_pattern hb, List.lt_iff_exists, and_left_comm]

/-- A W-subset's entries are spread out by at least their distance. -/
theorem idxAt_add_le (ha : ValidComb w a) {j k : Nat} (hjk : j ≤ k) (hk : k < w.toNat) :
    idxAt a j + (k - j) ≤ idxAt a k := by
  obtain ⟨-, -, hrising, -⟩ := ha
  induction k, hjk using Nat.le_induction with
  | base => simp
  | succ k hjk ih =>
    have hstep := hrising (k + 1) hk k (Nat.lt_succ_self k)
    have := ih (by omega)
    omega

/-- Entry k is at most `24 - W + k`, its place in the class's last subset (R168). -/
theorem idxAt_le_last (ha : ValidComb w a) {k : Nat} (hk : k < w.toNat) :
    idxAt a k ≤ 24 - w.toNat + k := by
  have hlast : w.toNat - 1 < w.toNat := by omega
  have hspread := idxAt_add_le ha (show k ≤ w.toNat - 1 by omega) hlast
  obtain ⟨hw, hbound, -, -⟩ := ha
  have := hbound _ hlast
  omega

/-- Entry k is at least k, its place in the class's first subset (R170). -/
theorem le_idxAt (ha : ValidComb w a) {k : Nat} (hk : k < w.toNat) : k ≤ idxAt a k := by
  have := idxAt_add_le ha (Nat.zero_le k) hk
  omega

/-- The tuple of the set positions of a pattern of weight W (R28, R163). -/
def combOf (w : BitVec 3) (e : Pattern) : Vector (BitVec 5) 6 :=
  idxOf fun k => if k < w.toNat then BitVec.ofNat 5 ((positions e).getD k 0) else 0

/-- Every pattern of weight W is that of a W-subset. -/
theorem exists_validComb (hw : w.toNat ≤ 6) {e : Pattern} (he : weight e = w.toNat) :
    ∃ c, ValidComb w c ∧ pattern w c = e := by
  have hlen : (positions e).length = w.toNat := he
  have hentry (k : Nat) (hk : k < w.toNat) :
      idxAt (combOf w e) k = (positions e)[k]'(by omega) ∧ idxAt (combOf w e) k < 24 := by
    have hmem := (mem_positions e _).mp (List.getElem_mem (l := positions e) (n := k) (by omega))
    have hget : (positions e).getD k 0 = (positions e)[k]'(by omega) := by
      simp [hlen, hk]
    rw [combOf, idxAt_idxOf _ _ (by omega), if_pos hk, hget, BitVec.toNat_ofNat,
      Nat.mod_eq_of_lt (by omega)]
    exact ⟨rfl, hmem.1⟩
  have hvalid : ValidComb w (combOf w e) := by
    refine ⟨hw, fun k hk => (hentry k hk).2, fun k hk j hj => ?_, fun k hk hge => ?_⟩
    · rw [(hentry k hk).1, (hentry j (by omega)).1]
      exact (positions_sortedLT e).getElem_lt_getElem_of_lt hj
    · rw [combOf, idxAt_idxOf _ _ hk, if_neg (by omega)]
      rfl
  refine ⟨combOf w e, hvalid, positions_injective ?_⟩
  rw [positions_pattern hvalid]
  refine List.ext_getElem (by simp [hlen]) fun k hk _ => ?_
  simp [hentry k (by simpa using hk)]

/-! ## The successor -/

/-- The loop of `next_comb` finds the last index below the bound that is not at its last place. -/
theorem lastMovable_eq_some {w : Nat} {idx : Vector (BitVec 5) 6} {n k : Nat}
    (h : lastMovable w idx n = some k) : k < n ∧ idxAt idx k ≠ 24 - w + k ∧
      ∀ m, k < m → m < n → idxAt idx m = 24 - w + m := by
  induction n with
  | zero => simp [lastMovable] at h
  | succ n ih =>
    rw [lastMovable] at h
    split at h
    next hlast =>
      obtain ⟨hk, hne, habove⟩ := ih h
      refine ⟨by omega, hne, fun m hkm hm => ?_⟩
      obtain hlt | rfl := Nat.lt_succ_iff_lt_or_eq.mp hm
      · exact habove m hkm hlt
      · exact hlast
    next hne =>
      cases h
      exact ⟨Nat.lt_succ_self _, hne, fun m hnm hm => absurd hm (by omega)⟩

/-- It finds none when every index is at its last place. -/
theorem lastMovable_eq_none {w : Nat} {idx : Vector (BitVec 5) 6} {n : Nat}
    (h : lastMovable w idx n = none) : ∀ m < n, idxAt idx m = 24 - w + m := by
  induction n with
  | zero => exact fun m hm => absurd hm (Nat.not_lt_zero m)
  | succ n ih =>
    rw [lastMovable] at h
    split at h
    next hlast =>
      intro m hm
      obtain hlt | rfl := Nat.lt_succ_iff_lt_or_eq.mp hm
      · exact ih h m hlt
      · exact hlast
    next => cases h

/-- `next_comb` moves the last movable index k on by one and puts the indexes above it right behind
(R168). -/
theorem nextComb_eq_some (ha : ValidComb w a) (h : nextComb w a = some b) :
    ∃ k < w.toNat, idxAt a k < 24 - w.toNat + k ∧
      (∀ m, k < m → m < w.toNat → idxAt a m = 24 - w.toNat + m) ∧
      (∀ m < k, idxAt b m = idxAt a m) ∧
      (∀ m, k ≤ m → m < w.toNat → idxAt b m = idxAt a k + 1 + (m - k)) ∧
      ∀ m < 6, w.toNat ≤ m → idxAt b m = 0 := by
  unfold nextComb at h
  split at h
  next => cases h
  next k hk =>
    cases h
    obtain ⟨hkw, hne, habove⟩ := lastMovable_eq_some hk
    have hmax := idxAt_le_last ha hkw
    obtain ⟨hw, hbound, -, -⟩ := ha
    refine ⟨k, hkw, by omega, habove, fun m hm => ?_, fun m hkm hm => ?_, fun m hm hge => ?_⟩
    · have := hbound m (by omega)
      rw [idxAt_idxOf _ _ (by omega), if_pos hm, BitVec.toNat_ofNat, Nat.mod_eq_of_lt (by omega)]
    · rw [idxAt_idxOf _ _ (by omega), if_neg (by omega), if_pos hm, BitVec.toNat_ofNat,
        Nat.mod_eq_of_lt (by omega)]
    · rw [idxAt_idxOf _ _ hm, if_neg (by omega), if_neg (by omega)]
      rfl

/-- The successor of a W-subset is a W-subset. -/
theorem validComb_nextComb (ha : ValidComb w a) (h : nextComb w a = some b) : ValidComb w b := by
  obtain ⟨k, hk, hmax, -, hbelow, hmoved, hzero⟩ := nextComb_eq_some ha h
  obtain ⟨hw, hbound, hrising, -⟩ := ha
  refine ⟨hw, fun m hm => ?_, fun m hm j hj => ?_, hzero⟩
  · obtain hmk | hkm := Nat.lt_or_ge m k
    · rw [hbelow m hmk]
      exact hbound m hm
    · rw [hmoved m hkm hm]
      omega
  · obtain hmk | hkm := Nat.lt_or_ge m k
    · rw [hbelow m hmk, hbelow j (hj.trans hmk)]
      exact hrising m hm j hj
    · rw [hmoved m hkm hm]
      obtain hjk | hkj := Nat.lt_or_ge j k
      · have := hrising k hk j hjk
        rw [hbelow j hjk]
        omega
      · rw [hmoved j hkj (hj.trans hm)]
        omega

/-- The successor comes later. -/
theorem lexBefore_nextComb (ha : ValidComb w a) (h : nextComb w a = some b) :
    LexBefore w.toNat a b := by
  obtain ⟨k, hk, -, -, hbelow, hmoved, -⟩ := nextComb_eq_some ha h
  refine ⟨k, hk, fun j hj => (hbelow j hj).symm, ?_⟩
  rw [hmoved k le_rfl hk]
  omega

/-- No W-subset lies between a W-subset and its successor: one that comes later first differs at or
below the moved index, and where it differs there it is at least the successor everywhere. -/
theorem not_lexBefore_between {c : Vector (BitVec 5) 6} (ha : ValidComb w a)
    (h : nextComb w a = some b) (hc : ValidComb w c) (hac : LexBefore w.toNat a c) :
    ¬ LexBefore w.toNat c b := by
  rintro ⟨n, hn, hsame, hless⟩
  obtain ⟨k, hk, hmax, habove, hbelow, hmoved, -⟩ := nextComb_eq_some ha h
  obtain ⟨m, hm, hagree, hgreater⟩ := hac
  obtain hmk | rfl | hkm := Nat.lt_trichotomy m k
  · have := hbelow m hmk
    obtain hnm | rfl | hmn := Nat.lt_trichotomy n m
    · have := hagree n hnm
      have := hbelow n (hnm.trans hmk)
      omega
    · omega
    · have := hsame m hmn
      omega
  · obtain hnm | hmn := Nat.lt_or_ge n m
    · have := hagree n hnm
      have := hbelow n hnm
      omega
    · have := hmoved n hmn hn
      have := idxAt_add_le hc hmn hn
      omega
  · have := habove m hkm hm
    have := idxAt_le_last hc hm
    omega

/-- Where there is no successor, no W-subset comes later. -/
theorem not_lexBefore_of_nextComb_none (h : nextComb w a = none) {c : Vector (BitVec 5) 6}
    (hc : ValidComb w c) : ¬ LexBefore w.toNat a c := by
  have hlast : lastMovable w.toNat a w.toNat = none := by
    unfold nextComb at h
    split at h
    next hnone => exact hnone
    next => cases h
  rintro ⟨m, hm, -, hless⟩
  have := lastMovable_eq_none hlast m hm
  have := idxAt_le_last hc hm
  omega

/-! ## The first subset -/

theorem validComb_firstComb (hw : w.toNat ≤ 6) : ValidComb w (firstComb w) := by
  refine ⟨hw, fun k hk => ?_, fun k hk j hj => ?_, fun k hk hge => ?_⟩
  · rw [idxAt_firstComb w (by omega), if_pos hk]
    omega
  · rw [idxAt_firstComb w (by omega), idxAt_firstComb w (by omega), if_pos hk, if_pos (by omega)]
    exact hj
  · rw [idxAt_firstComb w hk, if_neg (by omega)]

/-- No W-subset comes before the class's first. -/
theorem not_lexBefore_firstComb (hw : w.toNat ≤ 6) {c : Vector (BitVec 5) 6}
    (hc : ValidComb w c) : ¬ LexBefore w.toNat c (firstComb w) := by
  rintro ⟨m, hm, -, hless⟩
  rw [idxAt_firstComb w (by omega), if_pos hm] at hless
  have := le_idxAt hc hm
  omega

end Combs

/-! ## Patterns between two candidates -/

/-- The successor's pattern comes later than the pattern, and every pattern of the class that does
is not before it. -/
theorem candidateBefore_nextComb {w : BitVec 3} {a b : Vector (BitVec 5) 6} (ha : ValidComb w a)
    (h : nextComb w a = some b) : CandidateBefore (pattern w a) (pattern w b) ∧
      ∀ e, weight e = w.toNat → CandidateBefore (pattern w a) e →
        e = pattern w b ∨ CandidateBefore (pattern w b) e := by
  have hb := validComb_nextComb ha h
  refine ⟨(candidateBefore_pattern_iff ha hb).mpr (lexBefore_nextComb ha h), fun e he hae => ?_⟩
  obtain ⟨c, hc, rfl⟩ := exists_validComb ha.1 he
  rw [candidateBefore_pattern_iff ha hc] at hae
  obtain hcb | heq | hbc := candidateBefore_trichotomy (pattern w c) (pattern w b)
  · rw [candidateBefore_pattern_iff hc hb] at hcb
    exact absurd hcb (not_lexBefore_between ha h hc hae)
  · exact .inl heq
  · exact .inr hbc

/-- Where there is no successor every pattern of the class is the current one or comes before it. -/
theorem candidateBefore_of_nextComb_none {w : BitVec 3} {a : Vector (BitVec 5) 6}
    (ha : ValidComb w a) (h : nextComb w a = none) {e : Pattern} (he : weight e = w.toNat) :
    e = pattern w a ∨ CandidateBefore e (pattern w a) := by
  obtain ⟨c, hc, rfl⟩ := exists_validComb ha.1 he
  obtain hca | heq | hac := candidateBefore_trichotomy (pattern w c) (pattern w a)
  · exact .inr hca
  · exact .inl heq
  · rw [candidateBefore_pattern_iff ha hc] at hac
    exact absurd hac (not_lexBefore_of_nextComb_none h hc)

/-- Every pattern of a class is its first one or comes after it. -/
theorem firstComb_candidateBefore {w : BitVec 3} (hw : w.toNat ≤ 6) {e : Pattern}
    (he : weight e = w.toNat) :
    e = pattern w (firstComb w) ∨ CandidateBefore (pattern w (firstComb w)) e := by
  obtain ⟨c, hc, rfl⟩ := exists_validComb hw he
  have hfirst := validComb_firstComb hw
  obtain hcf | heq | hfc := candidateBefore_trichotomy (pattern w c) (pattern w (firstComb w))
  · rw [candidateBefore_pattern_iff hc hfirst] at hcf
    exact absurd hcf (not_lexBefore_firstComb hw hc)
  · exact .inl heq
  · exact .inr hfc

end Sys2Proof.Machine
end

section
/-! PROOFS. The obligation about the enumeration. -/

namespace Sys2Proof

open Sys2Proof.Machine

/-- Settles O58: the successor is the very next subset, so that there is one exactly where some
pattern of the class comes later; the first subset has every entry at its least place. -/
theorem enumerationIsLexicographic : Obligations.EnumerationIsLexicographic := by
  refine ⟨fun w a b ha h => ⟨validComb_nextComb ha h, candidateBefore_nextComb ha h⟩,
    fun w a ha => ⟨fun h e => candidateBefore_of_nextComb_none ha h, fun hall => ?_⟩,
    fun w hw => ⟨validComb_firstComb hw, fun e => firstComb_candidateBefore hw⟩⟩
  by_contra hsome
  obtain ⟨b, h⟩ := Option.ne_none_iff_exists'.mp hsome
  obtain ⟨hlater, -⟩ := candidateBefore_nextComb ha h
  obtain heq | hbefore := hall (pattern w b) (weight_pattern (validComb_nextComb ha h))
  · rw [heq] at hlater
    exact candidateBefore_irrefl _ hlater
  · exact candidateBefore_asymm hlater hbefore

end Sys2Proof
end

section
/-! SUPPORT. The control invariant (spec 10_state.md section 8): the part of it that speaks of no
phase, and how the whole of it follows in IDLE, in BUSY and in FAULT. -/

namespace Sys2Proof

open Sys2Proof.Machine

/-- The part of the control invariant that holds whatever STATE and PHASE are: H, the flags' order
and the ranges of the position registers. -/
structure RegisterInv (s : State) : Prop where
  h_derived : s.hValid = true → s.hRows = deriveH s.cfg.gRom
  h_rank : s.hValid = true → 12 ≤ rank12 s.cfg.gRom
  h_reset : s.hValid = false → s.hRows = Vector.replicate 12 0#24
  table_needs_h : s.tableValid = true → s.hValid = true
  cand_needs_h : s.cand ≠ 0 → s.hValid = true
  w_le : s.w.toNat ≤ s.cfg.wMax.val
  byte_le : s.byte.toNat ≤ 2
  idx_valid : ValidComb s.w s.idx

/-- What a phase under way asks of OP and the flags (10_state.md R53 items 1 to 3). -/
structure PhaseReady (s : State) : Prop where
  phase_op : phaseOf s.phase s.op
  synd_needs_h : s.phase = .synd → s.hValid = true
  search_needs_h : s.phase = .search → s.hValid = true
  search_clears_table : s.phase = .search → s.tableValid = false
  read_needs_table : s.phase = .rdrow ∨ s.phase = .serial → s.tableValid = true
  serial_uncommitted : s.phase = .serial → s.outCommit = false

theorem ControlInv.registerInv {s : State} (h : ControlInv s) : RegisterInv s :=
  { h with cand_needs_h := fun hcand => h.search_needs_h (.inr hcand) }

theorem ControlInv.phaseReady {s : State} (h : ControlInv s) : PhaseReady s :=
  { h with search_needs_h := fun hphase => h.search_needs_h (.inl hphase) }

/-- In IDLE and outside any phase the registers are the whole invariant. -/
theorem RegisterInv.control_of_idle {s : State} (h : RegisterInv s) (hrun : s.runState = .idle)
    (hphase : s.phase = .none) (herr : s.err = .none ∧ s.errInfo = 0) : ControlInv s where
  busy_phase hbusy := by simp [hrun] at hbusy
  idle_phase _ := hphase
  fault_phase hfault := by simp [hrun] at hfault
  no_fault_err _ := herr
  phase_op := by simp [hphase, phaseOf]
  h_derived := h.h_derived
  h_rank := h.h_rank
  h_reset := h.h_reset
  table_needs_h := h.table_needs_h
  search_needs_h hbegun := hbegun.elim (fun hsearch => by simp [hphase] at hsearch) h.cand_needs_h
  synd_needs_h hsynd := by simp [hphase] at hsynd
  search_clears_table hsearch := by simp [hphase] at hsearch
  read_needs_table hread := by simp [hphase] at hread
  serial_uncommitted hserial := by simp [hphase] at hserial
  w_le := h.w_le
  byte_le := h.byte_le
  idx_valid := h.idx_valid

/-- In BUSY it is the registers and the phase. -/
theorem RegisterInv.control_of_busy {s : State} (h : RegisterInv s) (hready : PhaseReady s)
    (hrun : s.runState = .busy) (hphase : s.phase ≠ .none)
    (herr : s.err = .none ∧ s.errInfo = 0) : ControlInv s :=
  { h, hready with
    busy_phase := fun _ => hphase
    idle_phase := fun hidle => by simp [hrun] at hidle
    fault_phase := fun hfault => by simp [hrun] at hfault
    no_fault_err := fun _ => herr
    search_needs_h := fun hbegun => hbegun.elim hready.search_needs_h h.cand_needs_h }

/-- A fault leaves the registers and the phase (60_exceptions.md R236). -/
theorem RegisterInv.control_of_raise {s : State} (h : RegisterInv s) (hready : PhaseReady s)
    {code : ErrCode} (aux : BitVec 14) (hphase : (code = .constantIntegrity ∧ s.phase = .init) ∨
      (code = .searchIncomplete ∧ s.phase = .search) ∨ (code = .persistence ∧ s.phase = .serial)) :
    ControlInv (raise code aux s) :=
  { h, hready with
    busy_phase := nofun
    idle_phase := nofun
    fault_phase := fun _ => hphase
    no_fault_err := fun hne => absurd rfl hne
    search_needs_h := fun hbegun => hbegun.elim hready.search_needs_h h.cand_needs_h }

/-! ## The operations -/

/-- A search that begins does so at the empty subset, with nothing counted (R162). -/
theorem RegisterInv.searchBegin {s : State} (h : RegisterInv s) : RegisterInv (searchBegin s) :=
  { h with
    table_needs_h := nofun
    cand_needs_h := fun hcand => absurd rfl hcand
    w_le := Nat.zero_le _
    idx_valid := by simp [ValidComb] }

theorem RegisterInv.serialBegin {s : State} (h : RegisterInv s) : RegisterInv (serialBegin s) :=
  { h with byte_le := Nat.zero_le _ }

/-- The examination counts a candidate of a search, which needs H. -/
theorem RegisterInv.examine {s : State} (h : RegisterInv s) (hvalid : s.hValid = true) :
    RegisterInv (examine s) := by
  rw [examine_eq]
  exact { h with cand_needs_h := fun _ => hvalid }

theorem PhaseReady.examine {s : State} (h : PhaseReady s) : PhaseReady (examine s) := by
  rw [examine_eq]
  exact { h with }

/-- A derived H is valid (40_generator_and_parity_check.md R122). -/
theorem RegisterInv.derive {s : State} (h : RegisterInv s) (hrank : 12 ≤ rank12 s.cfg.gRom) :
    RegisterInv { s with hRows := deriveH s.cfg.gRom, hValid := true } :=
  { h with
    h_derived := fun _ => rfl
    h_rank := fun _ => hrank
    h_reset := nofun
    table_needs_h := fun _ => rfl
    cand_needs_h := fun _ => rfl }

theorem phaseReady_searchBegin {s : State} (hop : s.op = .build ∨ s.op = .run)
    (hvalid : s.hValid = true) : PhaseReady (searchBegin s) where
  phase_op := hop
  synd_needs_h := nofun
  search_needs_h _ := hvalid
  search_clears_table _ := rfl
  read_needs_table := by simp
  serial_uncommitted := nofun

theorem phaseReady_serialBegin {s : State} (hop : s.op = .ser ∨ s.op = .run)
    (htable : s.tableValid = true) : PhaseReady (serialBegin s) where
  phase_op := hop
  synd_needs_h := nofun
  search_needs_h := nofun
  search_clears_table := nofun
  read_needs_table _ := htable
  serial_uncommitted _ := rfl

/-! ## The three kinds of turn -/

/-- An accepted command begins its first phase, whose needs its precondition meets (30_encoding.md
R98, R99). -/
theorem controlInv_of_accepted {s : State} {i : Instr} (h : ControlInv s)
    (hidle : s.runState = .idle) (hready : CommandReady i s) :
    ControlInv (furtherEffect i (acceptOp i.opcode s)) := by
  have herr : s.err = .none ∧ s.errInfo = 0 := h.no_fault_err (by simp [hidle])
  have hregs : RegisterInv (acceptOp i.opcode s) := { h.registerInv with }
  cases i with
  | build =>
    have hphase := phaseReady_searchBegin (s := acceptOp .build s) (.inl rfl) hready
    exact hregs.searchBegin.control_of_busy hphase rfl nofun herr
  | ser =>
    have hphase := phaseReady_serialBegin (s := acceptOp .ser s) (.inl rfl) hready
    exact hregs.serialBegin.control_of_busy hphase rfl nofun herr
  | nop | init | run | synd | rdrow =>
    refine RegisterInv.control_of_busy { hregs with } ?_ rfl nofun herr
    constructor <;> simp [furtherEffect, phaseOf, Instr.opcode] <;> exact hready

/-- The sequencer's step in BUSY keeps the control invariant. -/
theorem controlInv_of_phaseStep {s t : State} (h : ControlInv s) (hbusy : s.runState = .busy)
    (hstep : PhaseStep s t) : ControlInv t := by
  have herr : s.err = .none ∧ s.errInfo = 0 := h.no_fault_err (by simp [hbusy])
  have hregs := h.registerInv
  have hready := h.phaseReady
  have hexamined {u : State} (hu : u = examine s) (hphase : s.phase = .search) :
      RegisterInv u ∧ PhaseReady u :=
    hu ▸ ⟨hregs.examine (hready.search_needs_h hphase), hready.examine⟩
  have hcomplete {u : State} (hu : u = examine s) (hphase : s.phase = .search) :
      RegisterInv { u with tableValid := true } :=
    { (hexamined hu hphase).1 with
      table_needs_h := fun _ => by simp [hu, hready.search_needs_h hphase] }
  cases hstep with
  | initFault hphase => exact hregs.control_of_raise hready _ (.inl ⟨rfl, hphase⟩)
  | initDone _ hrank =>
    have hderived := hregs.derive hrank
    exact RegisterInv.control_of_idle { hderived with } rfl rfl herr
  | initChained _ hrank hop =>
    exact (hregs.derive hrank).searchBegin.control_of_busy
      (phaseReady_searchBegin (.inr hop) rfl) hbusy nofun herr
  | synd | rdrow | nop => exact RegisterInv.control_of_idle { hregs with } rfl rfl herr
  | searchDone u hu hphase =>
    have hfull := hcomplete hu hphase
    exact RegisterInv.control_of_idle { hfull with } rfl rfl (by simp [hu, herr])
  | searchChained u hu hphase _ hop =>
    exact (hcomplete hu hphase).serialBegin.control_of_busy
      (phaseReady_serialBegin (.inr (by simp [hu, hop])) rfl) (by simp [hu, hbusy]) nofun
      (by simp [hu, herr])
  | searchNext u hu idx hphase _ hnext =>
    obtain ⟨hregsU, hreadyU⟩ := hexamined hu hphase
    refine RegisterInv.control_of_busy { hregsU with idx_valid := ?_ } { hreadyU with }
      (by simp [hu, hbusy]) (by simp [hu, hphase]) (by simp [hu, herr])
    rw [hu, examine_w]
    exact validComb_nextComb hregs.idx_valid hnext
  | searchClass u hu hphase _ hlast hbelow =>
    obtain ⟨hregsU, hreadyU⟩ := hexamined hu hphase
    have hmax : s.cfg.wMax.val < 7 := s.cfg.wMax.isLt
    have hw : (s.w + 1).toNat = s.w.toNat + 1 := toNat_w_succ hbelow
    refine RegisterInv.control_of_busy { hregsU with w_le := ?_, idx_valid := ?_ }
      { hreadyU with } (by simp [hu, hbusy]) (by simp [hu, hphase]) (by simp [hu, herr])
    · simp only [hu, examine_cfg, hw]
      exact hbelow
    · exact validComb_firstComb (hw.trans_le (by omega))
  | searchFault u hu hphase =>
    obtain ⟨hregsU, hreadyU⟩ := hexamined hu hphase
    exact hregsU.control_of_raise hreadyU _ (.inr (.inl ⟨rfl, by simp [hu, hphase]⟩))
  | serialWait => exact h
  | serialErr rest hphase =>
    exact RegisterInv.control_of_raise (s := { s with answers := rest }) { hregs with }
      { hready with } _ (.inr (.inr ⟨rfl, hphase⟩))
  | serialLast => exact RegisterInv.control_of_idle { hregs with } rfl rfl herr
  | serialRowEnd rest hphase =>
    exact RegisterInv.control_of_busy { hregs with byte_le := Nat.zero_le _ } { hready with } hbusy
      (by simp [hphase]) herr
  | serialInside rest hphase _ hbyte =>
    have hbound := hregs.byte_le
    refine RegisterInv.control_of_busy { hregs with byte_le := ?_ } { hready with } hbusy
      (by simp [hphase]) herr
    show (s.byte + 1).toNat ≤ 2
    bv_omega

/-! ## Reset -/

/-- What R272 gives a reset state that the invariants rest on, of 70_reset_and_hazards.md section 1;
FOUND and the unwritten LEADER cells are free (R274). -/
structure IsReset (s : State) : Prop where
  runState : s.runState = .idle
  phase : s.phase = .none
  err : s.err = .none
  errInfo : s.errInfo = 0
  hRows : s.hRows = Vector.replicate 12 0#24
  hValid : s.hValid = false
  tableValid : s.tableValid = false
  outCommit : s.outCommit = false
  leader : s.leader = []
  cand : s.cand = 0
  w : s.w = 0
  idx : s.idx = Vector.replicate 6 0#5
  byte : s.byte = 0

theorem isReset_hardReset (s : State) : IsReset (hardReset s) := by
  constructor <;> rfl

/-- No search has begun in a reset state. -/
theorem IsReset.not_searchBegun {s : State} (h : IsReset s) : ¬ SearchBegun s := by
  simp [SearchBegun, h.phase, h.cand]

theorem IsReset.controlInv {s : State} (h : IsReset s) : ControlInv s := by
  refine RegisterInv.control_of_idle ?_ h.runState h.phase ⟨h.err, h.errInfo⟩
  constructor <;> simp [h.hRows, h.hValid, h.tableValid, h.cand, h.w, h.idx, h.byte, ValidComb]

end Sys2Proof
end

section
/-! PROOFS. The obligation about the control invariant. -/

namespace Sys2Proof

open Sys2Proof.Machine

/-- Settles O40: by the kind of turn, and in BUSY by each way a phase can go on. -/
theorem stepKeepsControlInv : Obligations.StepKeepsControlInv := by
  intro s t h hstep
  cases stepOutcome_of_step hstep with
  | quiet => exact { h with }
  | accepted w i rest hidle _ _ hready =>
    have hturn : ControlInv { s with inputs := rest } := { h with }
    exact controlInv_of_accepted hturn hidle (commandReady_of_inputs.mpr hready)
  | sequenced inputs _ hturn hphase =>
    have hstart : ControlInv { s with inputs := inputs } := { h with }
    exact controlInv_of_phaseStep hstart hturn.1 hphase
  | reset => exact (isReset_hardReset _).controlInv

end Sys2Proof
end

section
/-! SUPPORT. Counting: the weight of a word as the size of a set, the patterns of one weight and
those up to a weight (spec 10_state.md R41), and which candidates come before the next one
(42_coset_leader_search.md R167 to R170). -/

namespace Sys2Proof.Machine

/-! ## The weight as a size -/

/-- The set positions of a word, as a set. -/
def bitSet {n : Nat} (v : BitVec n) : Finset Nat := (Finset.range n).filter (v.getLsbD · = true)

theorem mem_bitSet {n : Nat} {v : BitVec n} {j : Nat} :
    j ∈ bitSet v ↔ j < n ∧ v.getLsbD j = true := by
  simp [bitSet]

theorem weight_eq_card {n : Nat} (v : BitVec n) : weight v = (bitSet v).card := by
  have hlist : bitSet v = (positions v).toFinset := by
    ext j
    rw [mem_bitSet, List.mem_toFinset, mem_positions]
  rw [hlist, List.toFinset_card_of_nodup (positions_sortedLT v).nodup, weight]

theorem weight_le {n : Nat} (v : BitVec n) : weight v ≤ n := by
  rw [weight_eq_card, bitSet]
  exact (Finset.card_filter_le _ _).trans_eq (Finset.card_range n)

/-- A word of full weight has every bit set. -/
theorem getLsbD_of_weight_full {n : Nat} {v : BitVec n} (h : weight v = n) {j : Nat} (hj : j < n) :
    v.getLsbD j = true := by
  have hfull : bitSet v = Finset.range n :=
    Finset.eq_of_subset_of_card_le (Finset.filter_subset _ _) (by simp [← weight_eq_card, h])
  have hmem : j ∈ bitSet v := hfull ▸ Finset.mem_range.mpr hj
  exact (mem_bitSet.mp hmem).2

/-- Setting a bit that was 0 adds one to the weight (20_memory.md R66). -/
theorem weight_setFound {f : BitVec 4096} {a : Syndrome} (h : f.getLsbD a.toNat = false) :
    weight (setFound f a) = weight f + 1 := by
  have hset : bitSet (setFound f a) = insert a.toNat (bitSet f) := by
    ext j
    have ha : a.toNat < 4096 := a.isLt
    rw [Finset.mem_insert, mem_bitSet, mem_bitSet]
    constructor
    · rintro ⟨hj, hbit⟩
      rw [getLsbD_setFound f a j hj] at hbit
      simpa [hj, or_comm] using hbit
    · rintro (rfl | ⟨hj, hbit⟩)
      · exact ⟨ha, by simp [getLsbD_setFound f a _ ha]⟩
      · exact ⟨hj, by simp [getLsbD_setFound f a j hj, hbit]⟩
  have hnew : a.toNat ∉ bitSet f := by simp [mem_bitSet, h]
  rw [weight_eq_card, weight_eq_card, hset, Finset.card_insert_of_notMem hnew]

/-! ## Counting patterns -/

theorem bitSet_injective {n : Nat} : Function.Injective (bitSet (n := n)) := by
  intro a b h
  refine BitVec.eq_of_getLsbD_eq fun j hj => Bool.eq_iff_iff.mpr ?_
  have hmem : j ∈ bitSet a ↔ j ∈ bitSet b := by rw [h]
  simpa [mem_bitSet, hj] using hmem

/-- Every set of positions is that of a pattern. -/
theorem bitSet_bitsOf {n : Nat} {A : Finset Nat} (h : A ⊆ Finset.range n) :
    bitSet (bitsOf n fun j => decide (j ∈ A)) = A := by
  ext j
  rw [mem_bitSet, getLsbD_bitsOf]
  have hlt : j ∈ A → j < n := fun hj => Finset.mem_range.mp (h hj)
  simpa using hlt

/-- There are as many words of weight v as subsets of v positions. -/
theorem ncard_weight_eq (n v : Nat) : Set.ncard {e : BitVec n | weight e = v} = n.choose v := by
  have himage : bitSet '' {e : BitVec n | weight e = v} =
      ((Finset.range n).powersetCard v : Set (Finset Nat)) := by
    ext A
    simp only [Set.mem_image, Set.mem_ofPred_eq, Finset.mem_coe, Finset.mem_powersetCard]
    constructor
    · rintro ⟨e, hweight, rfl⟩
      exact ⟨Finset.filter_subset _ _, by rw [← weight_eq_card, hweight]⟩
    · rintro ⟨hsub, hcard⟩
      exact ⟨_, by rw [weight_eq_card, bitSet_bitsOf hsub, hcard], bitSet_bitsOf hsub⟩
  rw [← Set.ncard_image_of_injective _ bitSet_injective, himage, Set.ncard_coe_finset,
    Finset.card_powersetCard, Finset.card_range]

/-- The number of words of weight below m (10_state.md R41). -/
theorem ncard_weight_lt (n m : Nat) :
    Set.ncard {e : BitVec n | weight e < m} = ∑ v ∈ Finset.range m, n.choose v := by
  induction m with
  | zero => simp
  | succ m ih =>
    have hsplit : {e : BitVec n | weight e < m + 1} =
        {e | weight e < m} ∪ {e | weight e = m} := by
      ext e
      exact Nat.lt_succ_iff_lt_or_eq
    have hdisjoint : Disjoint {e : BitVec n | weight e < m} {e | weight e = m} :=
      Set.disjoint_left.mpr fun e hlt heq => absurd heq (Nat.ne_of_lt hlt)
    rw [hsplit, Set.ncard_union_eq hdisjoint (Set.toFinite _) (Set.toFinite _), ih,
      ncard_weight_eq, Finset.sum_range_succ]

/-! ## The candidates before the next one -/

/-- No candidate comes before the first, the zero pattern (R170). -/
theorem not_candidateBefore_zero (e : Pattern) : ¬ CandidateBefore e 0#24 := by
  simp [CandidateBefore]

section Candidates

variable {w : BitVec 3} {a : Vector (BitVec 5) 6} {e : Pattern}

/-- Before the successor come the current candidate and those before it. -/
theorem candidateBefore_next_iff {b : Vector (BitVec 5) 6} (ha : ValidComb w a)
    (h : nextComb w a = some b) : CandidateBefore e (pattern w b) ↔
      e = pattern w a ∨ CandidateBefore e (pattern w a) := by
  obtain ⟨hlater, hnext⟩ := candidateBefore_nextComb ha h
  constructor
  · intro hbefore
    obtain hlt | heq | hgt := candidateBefore_trichotomy e (pattern w a)
    · exact .inr hlt
    · exact .inl heq
    · have hle : weight e ≤ w.toNat := by
        rw [← weight_pattern (validComb_nextComb ha h)]
        exact hbefore.elim le_of_lt fun hsame => hsame.1.le
      have hge : w.toNat ≤ weight e := by
        rw [← weight_pattern ha]
        exact hgt.elim le_of_lt fun hsame => hsame.1.le
      obtain rfl | hafter := hnext e (le_antisymm hle hge) hgt
      · exact absurd hbefore (candidateBefore_irrefl _)
      · exact absurd hafter (candidateBefore_asymm hbefore)
  · rintro (rfl | hbefore)
    · exact hlater
    · exact candidateBefore_trans hbefore hlater

/-- The candidates up to the current one have weight at most W. -/
theorem weight_lt_of_seen (ha : ValidComb w a)
    (h : e = pattern w a ∨ CandidateBefore e (pattern w a)) : weight e < w.toNat + 1 := by
  obtain rfl | hlt | ⟨heq, -⟩ := h
  · rw [weight_pattern ha]
    exact Nat.lt_succ_self _
  · rw [weight_pattern ha] at hlt
    omega
  · rw [heq, weight_pattern ha]
    exact Nat.lt_succ_self _

/-- After a class's last subset, the candidates seen are the patterns of weight at most W. -/
theorem weight_le_iff_of_last (ha : ValidComb w a) (h : nextComb w a = none) :
    weight e < w.toNat + 1 ↔ e = pattern w a ∨ CandidateBefore e (pattern w a) := by
  constructor
  · intro hle
    obtain hlt | heq := Nat.lt_succ_iff_lt_or_eq.mp hle
    · exact .inr (.inl (by rwa [weight_pattern ha]))
    · exact candidateBefore_of_nextComb_none ha h heq
  · exact weight_lt_of_seen ha

/-- Before a class's first subset come the patterns of the lighter classes. -/
theorem candidateBefore_firstComb_iff (hw : w.toNat ≤ 6) :
    CandidateBefore e (pattern w (firstComb w)) ↔ weight e < w.toNat := by
  have hweight := weight_pattern (validComb_firstComb hw)
  constructor
  · intro hbefore
    obtain hlt | ⟨heq, hlex⟩ := hbefore
    · rwa [hweight] at hlt
    · obtain rfl | hafter := firstComb_candidateBefore hw (heq.trans hweight)
      · exact absurd hlex (lt_irrefl _)
      · exact absurd hafter (candidateBefore_asymm (.inr ⟨heq, hlex⟩))
  · intro hlt
    exact .inl (by rwa [hweight])

/-- The number of candidates up to the current one is one more than the number before it. -/
theorem ncard_seen (e : Pattern) : Set.ncard {x | x = e ∨ CandidateBefore x e} =
    Set.ncard {x | CandidateBefore x e} + 1 :=
  Set.ncard_insert_of_notMem (candidateBefore_irrefl e) (Set.toFinite _)

/-- It is at most the number of patterns of weight at most `W_MAX` (10_state.md R41). -/
theorem ncard_seen_le (ha : ValidComb w a) {m : Nat} (hm : w.toNat ≤ m) :
    Set.ncard {x | x = pattern w a ∨ CandidateBefore x (pattern w a)} ≤
      ∑ v ∈ Finset.range (m + 1), Nat.choose 24 v := by
  rw [← ncard_weight_lt]
  exact Set.ncard_le_ncard
    (fun x hx => (weight_lt_of_seen ha hx).trans_le (Nat.succ_le_succ hm)) (Set.toFinite _)

end Candidates

/-- The bound on CAND fits its 18 bits, for every ceiling (10_state.md R41). -/
theorem candidates_lt (m : Fin 7) :
    ∑ v ∈ Finset.range (m.val + 1), Nat.choose 24 v < 2 ^ 18 - 1 := by
  revert m
  decide

end Sys2Proof.Machine
end

section
/-! SUPPORT. The invariants of the search, of the count of candidates, of minimality and of the sink
(spec 10_state.md section 8, 42_coset_leader_search.md section 7, 43_table_serializer.md section 3):
what a search that begins and the examination of a candidate do to them, and that they do not depend
on the phases outside their own. -/

namespace Sys2Proof

open Sys2Proof.Machine

/-! ## The examination of a candidate -/

/-- After the examination the candidate's syndrome is found, and no other is found or lost. -/
theorem foundAt_examine (s : State) (a : Syndrome) : foundAt (examine s) a =
    (foundAt s a || decide (a = syndrome s.hRows (pattern s.w s.idx))) := by
  obtain ⟨hold, hex⟩ | ⟨-, hex⟩ := examine_cases s
  · rw [hex]
    show foundAt s a = _
    by_cases ha : a = syndrome s.hRows (pattern s.w s.idx)
    · simp [ha, hold]
    · simp [ha]
  · rw [hex, foundAt_recordLeader]
    rfl

/-- A cell that was recorded keeps its pattern. -/
theorem leaderAt_examine_of_found {s : State} {a : Syndrome} (h : foundAt s a = true) :
    leaderAt (examine s) a = leaderAt s a := by
  obtain ⟨-, hex⟩ | ⟨hnew, hex⟩ := examine_cases s
  · rw [hex]
    rfl
  · have hne : a ≠ syndrome s.hRows (pattern s.w s.idx) := by
      rintro rfl
      simp [h] at hnew
    exact (examine_other s hne).2

/-- A cell that is recorded now holds the candidate. -/
theorem leaderAt_examine_of_new {s : State}
    (h : foundAt s (syndrome s.hRows (pattern s.w s.idx)) = false) :
    leaderAt (examine s) (syndrome s.hRows (pattern s.w s.idx)) = pattern s.w s.idx := by
  rw [examine_of_not_found h, leaderAt_recordLeader_same]

/-! ## The search and its memories -/

/-- What the search invariant says of the two memories and COUNT once a search has begun. -/
structure TableInv (s : State) : Prop where
  leader_wf : Memory.wf s.leader
  found_leader : ∀ a, foundAt s a = true →
    ∃ e, s.leader.read a.toNat = some e ∧ syndrome s.hRows e = a ∧ weight e ≤ s.w.toNat
  count_found : s.count.toNat = weight s.found

theorem SearchInv.tableInv {s : State} (h : SearchInv s) (hbegun : SearchBegun s) : TableInv s where
  leader_wf := h.leader_wf
  found_leader := h.found_leader hbegun
  count_found := h.count_found hbegun

/-- Below 4096 COUNT goes up without wrapping (10_state.md R40). -/
theorem toNat_count_succ {c : BitVec 13} (h : c.toNat < 4096) : (c + 1).toNat = c.toNat + 1 := by
  bv_omega

/-- The examination keeps the table: a new cell holds a pattern of its own syndrome, and COUNT goes
up with the one new FOUND bit (42_coset_leader_search.md R164, R165). -/
theorem TableInv.examine {s : State} (h : TableInv s) (hcomb : ValidComb s.w s.idx)
    (hcount : s.count.toNat < 4096) : TableInv (examine s) := by
  cases hfound : foundAt s (syndrome s.hRows (pattern s.w s.idx)) with
  | true =>
    rw [examine_of_found hfound]
    exact { h with }
  | false =>
    rw [examine_of_not_found hfound]
    refine ⟨Memory.wf_write _ _ _ h.leader_wf (BitVec.isLt _), fun a ha => ?_, ?_⟩
    · by_cases hnew : a = syndrome s.hRows (pattern s.w s.idx)
      · rw [hnew]
        exact ⟨_, Memory.read_write_same _ _ _, rfl, (weight_pattern hcomb).le⟩
      · have hold : foundAt s a = true := by
          rw [foundAt_recordLeader, Bool.or_eq_true] at ha
          exact ha.resolve_right (by simpa using hnew)
        obtain ⟨e, hread, he⟩ := h.found_leader a hold
        have hne : a.toNat ≠ (syndrome s.hRows (pattern s.w s.idx)).toNat := fun heq =>
          hnew (BitVec.eq_of_toNat_eq heq)
        exact ⟨e, (Memory.read_write_other _ _ _ _ hne).trans hread, he⟩
    · show (s.count + 1).toNat = weight (setFound s.found _)
      rw [toNat_count_succ hcount, weight_setFound hfound, h.count_found]

/-- COUNT stays at most 4096. -/
theorem TableInv.count_le {s : State} (h : TableInv s) : s.count.toNat ≤ 4096 :=
  h.count_found ▸ weight_le s.found

/-- At COUNT 4096 every syndrome is found (R53 item 6). -/
theorem TableInv.found_of_full {s : State} (h : TableInv s) (hfull : s.count = 4096)
    (a : Syndrome) : foundAt s a = true :=
  getLsbD_of_weight_full (by rw [← h.count_found, hfull]; rfl) a.isLt

/-- The search invariant in the SEARCH phase and in the step that leaves it. -/
theorem TableInv.searchInv {s : State} (h : TableInv s)
    (hcount : s.phase = .search → s.count ≠ 4096) (htable : s.tableValid = true → s.count = 4096) :
    SearchInv s where
  leader_wf := h.leader_wf
  found_leader _ := h.found_leader
  count_found _ := h.count_found
  count_searching hphase := by
    have hne := hcount hphase
    have hle := h.count_le
    bv_omega
  table_full hvalid := ⟨htable hvalid, h.found_of_full (htable hvalid)⟩

/-- A search that begins has found nothing. -/
theorem SearchInv.searchBegin {s : State} (h : Memory.wf s.leader) : SearchInv (searchBegin s) where
  leader_wf := h
  found_leader _ a ha := by simp at ha
  count_found _ := (weight_zero 4096).symm
  count_searching _ := by simp
  table_full := nofun

/-- Outside SEARCH the invariant depends on the table alone, and on H and W if a search has begun.
-/
theorem SearchInv.of_table_eq {s t : State} (h : SearchInv s) (hphase : t.phase ≠ .search)
    (hcand : t.cand = s.cand) (hleader : t.leader = s.leader) (hfound : t.found = s.found)
    (hcount : t.count = s.count) (hw : t.w = s.w) (htable : t.tableValid = s.tableValid)
    (hrows : SearchBegun s → t.hRows = s.hRows) : SearchInv t := by
  have hbegun (ht : SearchBegun t) : SearchBegun s := .inr (hcand ▸ ht.resolve_left hphase)
  refine ⟨hleader ▸ h.leader_wf, fun ht a ha => ?_, fun ht => ?_,
    fun hsearch => absurd hsearch hphase, fun hvalid => ?_⟩
  · rw [hleader, hrows (hbegun ht), hw]
    exact h.found_leader (hbegun ht) a (foundAt_congr hfound a ▸ ha)
  · rw [hcount, hfound]
    exact h.count_found (hbegun ht)
  · rw [hcount]
    obtain ⟨hfull, hall⟩ := h.table_full (htable ▸ hvalid)
    exact ⟨hfull, fun a => (foundAt_congr hfound a).trans (hall a)⟩

/-- Every step of a phase keeps the search invariant. -/
theorem searchInv_of_phaseStep {s t : State} (hcontrol : ControlInv s) (h : SearchInv s)
    (hstep : PhaseStep s t) : SearchInv t := by
  have hexamined (hphase : s.phase = .search) : TableInv (examine s) :=
    (h.tableInv (.inl hphase)).examine hcontrol.idx_valid (h.count_searching hphase)
  have hclear (hphase : s.phase = .search) : s.tableValid = false :=
    hcontrol.search_clears_table hphase
  cases hstep with
  | initFault => exact { h with }
  | initDone =>
    exact h.of_table_eq nofun rfl rfl rfl rfl rfl rfl fun hbegun =>
      (hcontrol.h_derived (hcontrol.search_needs_h hbegun)).symm
  | initChained => exact .searchBegin h.leader_wf
  | synd | rdrow | nop => exact h.of_table_eq nofun rfl rfl rfl rfl rfl rfl fun _ => rfl
  | searchDone u hu hphase hfull =>
    have htable := hu ▸ hexamined hphase
    exact TableInv.searchInv { htable with } nofun fun _ => hfull
  | searchChained u hu hphase hfull =>
    have htable := hu ▸ hexamined hphase
    exact TableInv.searchInv { htable with } nofun fun _ => hfull
  | searchNext u hu idx hphase hmore =>
    have htable := hu ▸ hexamined hphase
    refine TableInv.searchInv { htable with } (fun _ => hmore) fun hvalid => ?_
    simp [hu, hclear hphase] at hvalid
  | searchClass u hu hphase hmore _ hbelow =>
    have htable := hu ▸ hexamined hphase
    refine TableInv.searchInv { htable with found_leader := fun a ha => ?_ } (fun _ => hmore)
      fun hvalid => ?_
    · obtain ⟨e, hread, hsyn, hweight⟩ := htable.found_leader a ha
      refine ⟨e, hread, hsyn, hweight.trans ?_⟩
      rw [hu, examine_w]
      exact (Nat.le_succ _).trans_eq (toNat_w_succ hbelow).symm
    · simp [hu, hclear hphase] at hvalid
  | searchFault u hu hphase hmore =>
    have htable := hu ▸ hexamined hphase
    refine TableInv.searchInv { htable with } (fun _ => hmore) fun hvalid => ?_
    simp [hu, hclear hphase] at hvalid
  | serialWait => exact h
  | serialErr => exact { h with }
  | serialLast => exact h.of_table_eq nofun rfl rfl rfl rfl rfl rfl fun _ => rfl
  | serialRowEnd => exact { h with }
  | serialInside => exact { h with }

/-- An accepted command begins a search or leaves the table. -/
theorem searchInv_of_accepted {s : State} {i : Instr} (h : SearchInv s) :
    SearchInv (furtherEffect i (acceptOp i.opcode s)) := by
  cases i with
  | build => exact .searchBegin h.leader_wf
  | _ => exact h.of_table_eq nofun rfl rfl rfl rfl rfl rfl fun _ => rfl

theorem IsReset.searchInv {s : State} (h : IsReset s) : SearchInv s where
  leader_wf := h.leader ▸ Memory.wf_nil
  found_leader hbegun := absurd hbegun h.not_searchBegun
  count_found hbegun := absurd hbegun h.not_searchBegun
  count_searching hphase := by simp [h.phase] at hphase
  table_full hvalid := by simp [h.tableValid] at hvalid

/-! ## The count of the candidates -/

/-- CAND is the exact number of the candidates before the current one (R169). -/
def CandExact (s : State) : Prop :=
  s.cand.toNat = Set.ncard {e : Pattern | CandidateBefore e (pattern s.w s.idx)}

/-- The examination counts its candidate, within the bound and so without wrapping (10_state.md
R41). -/
theorem CandExact.examine {s : State} (h : CandExact s) (hcomb : ValidComb s.w s.idx)
    (hw : s.w.toNat ≤ s.cfg.wMax.val) :
    (s.cand + 1).toNat = s.cand.toNat + 1 ∧
      (s.cand + 1).toNat = Set.ncard {e : Pattern |
        e = pattern s.w s.idx ∨ CandidateBefore e (pattern s.w s.idx)} ∧
      (s.cand + 1).toNat ≤ ∑ v ∈ Finset.range (s.cfg.wMax.val + 1), Nat.choose 24 v := by
  have hbound := ncard_seen_le hcomb hw
  have hlt := candidates_lt s.cfg.wMax
  rw [ncard_seen, ← h] at hbound
  have hsucc : (s.cand + 1).toNat = s.cand.toNat + 1 := by bv_omega
  rw [hsucc, ncard_seen, ← h]
  exact ⟨rfl, rfl, hbound⟩

/-- Where the search goes on, the candidates seen are those before the next one (R167 to R170). -/
theorem seen_iff_before_next {s t : State} (hcomb : ValidComb s.w s.idx) (hstep : PhaseStep s t)
    (hphase : s.phase = .search) (hbusy : t.runState = .busy) (hsearch : t.phase = .search)
    (e : Pattern) : CandidateBefore e (pattern t.w t.idx) ↔
      e = pattern s.w s.idx ∨ CandidateBefore e (pattern s.w s.idx) := by
  cases hstep with
  | searchNext u hu idx _ _ hnext =>
    simp only [hu, examine_w]
    exact candidateBefore_next_iff hcomb hnext
  | searchClass _ _ _ _ hlast hbelow =>
    have hmax : s.cfg.wMax.val < 7 := s.cfg.wMax.isLt
    have hw : (s.w + 1).toNat = s.w.toNat + 1 := toNat_w_succ hbelow
    rw [candidateBefore_firstComb_iff (hw.trans_le (by omega)), hw]
    exact weight_le_iff_of_last hcomb hlast
  | searchDone | searchFault => cases hbusy
  | searchChained => cases hsearch
  | _ => simp_all

/-- A SEARCH step counts its candidate and leaves the table as the examination did. -/
theorem table_of_search {s t : State} (hstep : PhaseStep s t) (hphase : s.phase = .search) :
    t.cand = s.cand + 1 ∧ t.leader = (examine s).leader ∧ t.found = (examine s).found ∧
      t.resets = (examine s).resets ∧ t.hRows = s.hRows := by
  cases hstep <;> simp_all

/-- A search begins with CAND 0 at the zero pattern, before which there is none. -/
theorem candInv_of_clear {t : State} (hcand : t.cand = 0) (hw : t.w = 0) : CandInv t where
  cand_exact _ _ := by
    have hnone : {e : Pattern | CandidateBefore e (pattern t.w t.idx)} = ∅ := by
      rw [hw]
      exact Set.eq_empty_of_forall_notMem not_candidateBefore_zero
    rw [hnone, hcand, Set.ncard_empty]
    rfl
  cand_le := by
    rw [hcand]
    exact Nat.zero_le _

/-- Outside SEARCH only the bound speaks of CAND. -/
theorem CandInv.of_cand_eq {s t : State} (h : CandInv s) (hphase : t.phase ≠ .search)
    (hcand : t.cand = s.cand) (hcfg : t.cfg = s.cfg) : CandInv t where
  cand_exact _ hsearch := absurd hsearch hphase
  cand_le := by
    rw [hcand, hcfg]
    exact h.cand_le

/-- Every step of a phase keeps the count of candidates. -/
theorem candInv_of_phaseStep {s t : State} (hcontrol : ControlInv s) (h : CandInv s)
    (hbusy : s.runState = .busy) (hstep : PhaseStep s t) : CandInv t := by
  have hcfg : t.cfg = s.cfg := hstep.cfg
  by_cases hphase : s.phase = .search
  · obtain ⟨-, hexact, hle⟩ := CandExact.examine (h.cand_exact hbusy hphase) hcontrol.idx_valid
      hcontrol.w_le
    obtain ⟨hcand, -⟩ := table_of_search hstep hphase
    refine ⟨fun hbusyT hsearch => ?_, ?_⟩
    · have hseen := seen_iff_before_next hcontrol.idx_valid hstep hphase hbusyT hsearch
      simp only [hseen]
      rw [hcand, hexact]
    · rw [hcand, hcfg]
      exact hle
  · obtain ⟨-, -, ⟨hother, -, hcand⟩ | ⟨-, -, hcand, hw⟩⟩ := hstep.table_of_not_search hphase
    · exact h.of_cand_eq hother hcand hcfg
    · exact candInv_of_clear hcand hw

/-- An accepted command begins a search or leaves CAND. -/
theorem candInv_of_accepted {s : State} {i : Instr} (h : CandInv s) :
    CandInv (furtherEffect i (acceptOp i.opcode s)) := by
  cases i with
  | build => exact candInv_of_clear rfl rfl
  | _ => exact h.of_cand_eq nofun rfl rfl

/-! ## Minimality -/

/-- A search that begins has found nothing, and no candidate comes before the zero pattern. -/
theorem minimalInv_of_clear {t : State} (hfound : t.found = 0) (hw : t.w = 0) : MinimalInv t where
  enumerated _ _ e hbefore := by
    rw [hw] at hbefore
    exact absurd hbefore (not_candidateBefore_zero e)
  first_of_coset _ a ha := by simp [foundAt, hfound] at ha

/-- Outside SEARCH minimality depends on the table, and on H if a search has begun. -/
theorem MinimalInv.of_table_eq {s t : State} (h : MinimalInv s) (hphase : t.phase ≠ .search)
    (hcand : t.cand = s.cand) (hleader : t.leader = s.leader) (hresets : t.resets = s.resets)
    (hfound : t.found = s.found) (hrows : SearchBegun s → t.hRows = s.hRows) : MinimalInv t where
  enumerated _ hsearch := absurd hsearch hphase
  first_of_coset ht a ha e he := by
    have hbegun : SearchBegun s := .inr (hcand ▸ ht.resolve_left hphase)
    rw [leaderAt_congr hleader hresets]
    exact h.first_of_coset hbegun a (foundAt_congr hfound a ▸ ha) e (hrows hbegun ▸ he)

/-- After the examination every candidate seen has its syndrome found (R174). -/
theorem enumerated_examine {s : State} (h : ∀ e, CandidateBefore e (pattern s.w s.idx) →
      foundAt s (syndrome s.hRows e) = true) (e : Pattern)
    (he : e = pattern s.w s.idx ∨ CandidateBefore e (pattern s.w s.idx)) :
    foundAt (examine s) (syndrome s.hRows e) = true := by
  rw [foundAt_examine]
  obtain rfl | hbefore := he
  · simp
  · simp [h e hbefore]

/-- After the examination every found cell holds the first pattern of its coset: a cell recorded now
holds the candidate, before which no pattern has its syndrome (R174, R175). -/
theorem first_of_coset_examine {s : State}
    (henum : ∀ e, CandidateBefore e (pattern s.w s.idx) → foundAt s (syndrome s.hRows e) = true)
    (hfirst : ∀ a, foundAt s a = true → ∀ e, syndrome s.hRows e = a →
      e = leaderAt s a ∨ CandidateBefore (leaderAt s a) e)
    {a : Syndrome} (ha : foundAt (examine s) a = true) {e : Pattern} (he : syndrome s.hRows e = a) :
    e = leaderAt (examine s) a ∨ CandidateBefore (leaderAt (examine s) a) e := by
  cases hfound : foundAt s a with
  | true =>
    rw [leaderAt_examine_of_found hfound]
    exact hfirst a hfound e he
  | false =>
    have hnew : a = syndrome s.hRows (pattern s.w s.idx) := by
      rw [foundAt_examine, hfound] at ha
      simpa using ha
    rw [hnew, leaderAt_examine_of_new (hnew ▸ hfound)]
    obtain hbefore | heq | hafter := candidateBefore_trichotomy e (pattern s.w s.idx)
    · have hseen := henum e hbefore
      simp [he, hfound] at hseen
    · exact .inl heq
    · exact .inr hafter

/-- Every step of a phase keeps minimality. -/
theorem minimalInv_of_phaseStep {s t : State} (hcontrol : ControlInv s) (h : MinimalInv s)
    (hbusy : s.runState = .busy) (hstep : PhaseStep s t) : MinimalInv t := by
  by_cases hphase : s.phase = .search
  · obtain ⟨-, hleader, hfound, hresets, hrows⟩ := table_of_search hstep hphase
    have henum := h.enumerated hbusy hphase
    refine ⟨fun hbusyT hsearch e hbefore => ?_, fun _ a ha e he => ?_⟩
    · rw [seen_iff_before_next hcontrol.idx_valid hstep hphase hbusyT hsearch] at hbefore
      rw [foundAt_congr hfound, hrows]
      exact enumerated_examine henum e hbefore
    · rw [leaderAt_congr hleader hresets]
      exact first_of_coset_examine henum (h.first_of_coset (.inl hphase))
        (foundAt_congr hfound a ▸ ha) (hrows ▸ he)
  · obtain ⟨hleader, hresets, ⟨hother, hfound, hcand⟩ | ⟨-, hfound, -, hw⟩⟩ :=
      hstep.table_of_not_search hphase
    · refine h.of_table_eq hother hcand hleader hresets hfound fun hbegun => ?_
      obtain hsame | ⟨-, hderived, -⟩ := hstep.hRows_cases
      · exact hsame
      · rw [hderived, hcontrol.h_derived (hcontrol.search_needs_h hbegun)]
    · exact minimalInv_of_clear hfound hw

/-- An accepted command begins a search or leaves the table. -/
theorem minimalInv_of_accepted {s : State} {i : Instr} (h : MinimalInv s) :
    MinimalInv (furtherEffect i (acceptOp i.opcode s)) := by
  cases i with
  | build => exact minimalInv_of_clear rfl rfl
  | _ => exact h.of_table_eq nofun rfl rfl rfl rfl fun _ => rfl

theorem IsReset.minimalInv {s : State} (h : IsReset s) : MinimalInv s where
  enumerated hbusy := by simp [h.runState] at hbusy
  first_of_coset hbegun := absurd hbegun h.not_searchBegun

/-! ## The sink -/

/-- Outside SERIAL only OUT_COMMIT speaks of OUT. -/
theorem SinkInv.of_out_eq {s t : State} (h : SinkInv s) (hphase : t.phase ≠ .serial)
    (hout : t.out = s.out) (hcommit : t.outCommit = true → s.outCommit = true) : SinkInv t where
  sent_prefix hserial := absurd hserial hphase
  committed_length hset := by
    rw [hout]
    exact h.committed_length (hcommit hset)

/-- A serialization that begins has sent nothing and is uncommitted (R194). -/
theorem sinkInv_serialBegin (s : State) : SinkInv (serialBegin s) where
  sent_prefix _ hpos := absurd hpos (by simp [byteOffset])
  committed_length := nofun

/-- Where a byte of the artifact has been sent and more follow, OUT holds the bytes before the next
place. -/
theorem sinkInv_of_sent {s t : State} (hcommit : t.outCommit = false)
    (hleader : t.leader = s.leader) (hresets : t.resets = s.resets)
    (hoffset : byteOffset t = byteOffset s + 1)
    (hout : t.out = artifactPrefix s (byteOffset s + 1)) : SinkInv t where
  sent_prefix _ _ := by rw [hoffset, hout, artifactPrefix_congr hleader hresets]
  committed_length hset := by simp [hcommit] at hset

/-- A row has three bytes, so the place after its last byte is the next row's first (R198). -/
theorem byteOffset_row_end {s t : State} (hrow : s.row ≠ 4095) (hbyte : s.byte = 2)
    (hrowT : t.row = s.row + 1) (hbyteT : t.byte = 0) : byteOffset t = byteOffset s + 1 := by
  have hsucc : (s.row + 1).toNat = s.row.toNat + 1 := by bv_omega
  rw [byteOffset, byteOffset, hrowT, hbyteT, hbyte, hsucc]
  show 3 * (s.row.toNat + 1) + 0 = 3 * s.row.toNat + 2 + 1
  omega

/-- Inside a row the next place is the next byte (R198). -/
theorem byteOffset_row_inside {s t : State} (hle : s.byte.toNat ≤ 2) (hrowT : t.row = s.row)
    (hbyteT : t.byte = s.byte + 1) : byteOffset t = byteOffset s + 1 := by
  have hsucc : (s.byte + 1).toNat = s.byte.toNat + 1 := by bv_omega
  rw [byteOffset, byteOffset, hrowT, hbyteT, hsucc]
  omega

/-- Every step of a phase keeps the sink's invariant. -/
theorem sinkInv_of_phaseStep {s t : State} (hcontrol : ControlInv s) (h : SinkInv s)
    (hstep : PhaseStep s t) : SinkInv t := by
  by_cases hphase : s.phase = .serial
  · have hsent := sinkAccept_eq_artifactPrefix hcontrol.byte_le (h.sent_prefix hphase)
    have hopen := hcontrol.serial_uncommitted hphase
    cases hstep with
    | serialWait => exact h
    | serialErr => exact { h with }
    | serialLast rest _ _ hrow hbyte =>
      refine ⟨nofun, fun _ => ?_⟩
      show (sinkAccept (sinkOffer s) s.out).length = 12288
      simp [hsent, artifactPrefix, byteOffset, hrow, hbyte]
    | serialRowEnd rest _ _ hrow hbyte =>
      exact sinkInv_of_sent (s := s) hopen rfl rfl (byteOffset_row_end hrow hbyte rfl rfl) hsent
    | serialInside =>
      exact sinkInv_of_sent (s := s) hopen rfl rfl
        (byteOffset_row_inside hcontrol.byte_le rfl rfl) hsent
    | _ => simp_all
  · cases hstep with
    | searchChained => exact sinkInv_serialBegin _
    | serialWait | serialErr | serialLast | serialRowEnd | serialInside => simp_all
    | _ => exact h.of_out_eq (by simp_all) (by simp_all) (by simp_all)

/-- An accepted command begins a serialization or leaves OUT and OUT_COMMIT. -/
theorem sinkInv_of_accepted {s : State} {i : Instr} (h : SinkInv s) :
    SinkInv (furtherEffect i (acceptOp i.opcode s)) := by
  cases i with
  | ser => exact sinkInv_serialBegin _
  | _ => exact h.of_out_eq nofun rfl id

theorem IsReset.sinkInv {s : State} (h : IsReset s) : SinkInv s where
  sent_prefix hphase := by simp [h.phase] at hphase
  committed_length hset := by simp [h.outCommit] at hset

end Sys2Proof
end

section
/-! PROOFS. The obligations about the invariants of the search, of minimality and of the sink. -/

namespace Sys2Proof

open Sys2Proof.Machine

/-- Settles O41: only a SEARCH step records, and it keeps the table; a search that begins clears it.
-/
theorem stepKeepsSearchInv : Obligations.StepKeepsSearchInv := by
  intro s t hcontrol h hstep
  cases stepOutcome_of_step hstep with
  | quiet => exact { h with }
  | accepted _ _ rest => exact searchInv_of_accepted (s := { s with inputs := rest }) { h with }
  | sequenced inputs _ _ hphase =>
    exact searchInv_of_phaseStep (s := { s with inputs := inputs }) { hcontrol with } { h with }
      hphase
  | reset => exact (isReset_hardReset _).searchInv

/-- Settles O42: only a SEARCH step counts, its own candidate, and the next candidate is the one
after it. -/
theorem stepKeepsCandInv : Obligations.StepKeepsCandInv := by
  intro s t hcontrol h hstep
  cases stepOutcome_of_step hstep with
  | quiet => exact { h with }
  | accepted _ _ rest => exact candInv_of_accepted (s := { s with inputs := rest }) { h with }
  | sequenced inputs _ hturn hphase =>
    exact candInv_of_phaseStep (s := { s with inputs := inputs }) { hcontrol with } { h with }
      hturn.1 hphase
  | reset => exact candInv_of_clear rfl rfl

/-- Settles O43: a cell recorded now holds the current candidate, before which no pattern has its
syndrome; H stays as long as cells are recorded for it. -/
theorem stepKeepsMinimalInv : Obligations.StepKeepsMinimalInv := by
  intro s t hcontrol _ h hstep
  cases stepOutcome_of_step hstep with
  | quiet => exact { h with }
  | accepted _ _ rest => exact minimalInv_of_accepted (s := { s with inputs := rest }) { h with }
  | sequenced inputs _ hturn hphase =>
    exact minimalInv_of_phaseStep (s := { s with inputs := inputs }) { hcontrol with } { h with }
      hturn.1 hphase
  | reset => exact (isReset_hardReset _).minimalInv

/-- Settles O44: an accepted byte is the artifact's next one; outside SERIAL OUT stays. -/
theorem stepKeepsSinkInv : Obligations.StepKeepsSinkInv := by
  intro s t hcontrol h hstep
  cases stepOutcome_of_step hstep with
  | quiet => exact { h with }
  | accepted _ _ rest => exact sinkInv_of_accepted (s := { s with inputs := rest }) { h with }
  | sequenced inputs _ _ hphase =>
    exact sinkInv_of_phaseStep (s := { s with inputs := inputs }) { hcontrol with } { h with }
      hphase
  | reset => exact (isReset_hardReset _).sinkInv

/-- Settles O45: power-on reset is a reset state, whatever the values that no rule gives. -/
theorem resetMeetsInvariants : Obligations.ResetMeetsInvariants := by
  rintro c ins ans f s rfl
  have hreset :
      IsReset { State.reset with cfg := c, inputs := ins, answers := ans, found := f } := by
    constructor <;> rfl
  exact ⟨hreset.controlInv, hreset.searchInv, candInv_of_clear rfl rfl, hreset.minimalInv,
    hreset.sinkInv⟩

/-- Settles O47: the recorded pattern has its own syndrome, and no pattern of that syndrome comes
before it; the zero pattern comes first of all. -/
theorem recordedLeadersAreCosetLeaders : Obligations.RecordedLeadersAreCosetLeaders := by
  intro s hsearch hmin hbegun
  have hcell (a : Syndrome) (ha : foundAt s a = true) :
      syndrome s.hRows (leaderAt s a) = a ∧ weight (leaderAt s a) ≤ s.w.toNat := by
    obtain ⟨e, hread, he⟩ := hsearch.found_leader hbegun a ha
    simpa [leaderAt, hread] using he
  intro a ha
  have hfirst := hmin.first_of_coset hbegun a ha
  refine ⟨(hcell a ha).1, (hcell a ha).2, fun e he => ?_, fun b hb hne heq => ?_, fun hzero => ?_⟩
  · obtain rfl | hlighter | ⟨hsame, -⟩ := hfirst e he
    · exact le_rfl
    · exact hlighter.le
    · exact hsame.le
  · exact hne (by rw [← (hcell b hb).1, ← (hcell a ha).1, heq])
  · obtain heq | hbefore := hfirst 0 ((syndrome_zero s.hRows).trans hzero.symm)
    · exact heq.symm
    · exact absurd hbefore (not_candidateBefore_zero _)

end Sys2Proof
end

section
/-! SUPPORT. Whole runs with the schedule left to the sequencer (notes/assumptions/5.md): the search
up to its end (spec 42_coset_leader_search.md sections 2 to 5) and the serialization up to its last
byte (43_table_serializer.md sections 2 and 3). -/

namespace Sys2Proof

open Sys2Proof.Machine

/-- A run is its first step and the rest. -/
theorem run_succ_of_next {M : Host.Core} {s u : M.State} (h : M.step s = .next u) (n : Nat) :
    M.run (n + 1) s = M.run n u := by
  rw [Host.Core.run, h]

/-- With an exhausted schedule every turn is the sequencer's (70_reset_and_hazards.md R288). -/
theorem step_of_no_input {s : State} (h : s.inputs = []) : step s = sequencerStep s := by
  simp [step, turn, h]

/-! ## The search -/

/-- A BUILD's search under way, with no other turn to come. -/
structure Searching (s : State) : Prop where
  runState : s.runState = .busy
  phase : s.phase = .search
  op : s.op = .build
  inputs : s.inputs = []
  tableValid : s.tableValid = false
  comb : ValidComb s.w s.idx
  w_le : s.w.toNat ≤ s.cfg.wMax.val
  cand : CandExact s

/-- How a BUILD's search ends: complete, or at the ceiling after all candidates (R166, R171). -/
def SearchEnd (err : ErrCode) (s : State) : Prop :=
  (s.runState = .idle ∧ s.tableValid = true ∧ s.count = 4096 ∧ s.err = err) ∨
    (s.runState = .fault ∧ s.err = .searchIncomplete ∧ s.tableValid = false ∧ s.count ≠ 4096 ∧
      s.w.toNat = s.cfg.wMax.val ∧
      s.cand.toNat = ∑ v ∈ Finset.range (s.cfg.wMax.val + 1), Nat.choose 24 v)

/-- An accepted BUILD begins a search (R162). -/
theorem searching_of_accepted {s : State} (hinputs : s.inputs = []) :
    Searching (furtherEffect .build (acceptOp .build s)) where
  runState := rfl
  phase := rfl
  op := rfl
  inputs := hinputs
  tableValid := rfl
  comb := by simp [furtherEffect, ValidComb]
  w_le := Nat.zero_le _
  cand := (candInv_of_clear (t := searchBegin (acceptOp .build s)) rfl rfl).cand_exact rfl rfl

/-- A search that goes on stands at another candidate, with the candidates before it counted. -/
theorem Searching.moved {s u : State} (h : Searching s) (hu : u = examine s) {w : BitVec 3}
    {idx : Vector (BitVec 5) 6} (hcomb : ValidComb w idx) (hw : w.toNat ≤ s.cfg.wMax.val)
    (hcand : CandExact { u with w := w, idx := idx }) :
    Searching { u with w := w, idx := idx } where
  runState := by simp [hu, h.runState]
  phase := by simp [hu, h.phase]
  op := by simp [hu, h.op]
  inputs := by simp [hu, h.inputs]
  tableValid := by simp [hu, h.tableValid]
  comb := hcomb
  w_le := by simpa [hu] using hw
  cand := hcand

/-- A SEARCH step goes on with the search or ends it. -/
theorem Searching.next {s t : State} (h : Searching s) (hstep : PhaseStep s t) :
    (Searching t ∧ t.err = s.err) ∨ SearchEnd s.err t := by
  obtain ⟨-, hcand, -⟩ := h.cand.examine h.comb h.w_le
  have hop := h.op
  have hcandT : t.cand = s.cand + 1 := (table_of_search hstep h.phase).1
  have hexact (hbusy : t.runState = .busy) (hsearch : t.phase = .search) : CandExact t := by
    have hseen := seen_iff_before_next h.comb hstep h.phase hbusy hsearch
    rw [CandExact, hcandT, hcand]
    simp only [hseen]
  cases hstep with
  | searchDone u hu _ hfull => exact .inr (.inl ⟨rfl, rfl, hfull, by simp [hu]⟩)
  | searchChained _ _ _ _ hrun => simp [hop] at hrun
  | searchNext u hu idx _ _ hnext =>
    refine .inl ⟨h.moved (w := u.w) hu ?_ ?_ ?_, by simp [hu]⟩
    · simpa [hu] using validComb_nextComb h.comb hnext
    · simpa [hu] using h.w_le
    · exact hexact (by simp [hu, h.runState]) (by simp [hu, h.phase])
  | searchClass u hu _ _ _ hbelow =>
    have hmax : s.cfg.wMax.val < 7 := s.cfg.wMax.isLt
    have hw : (s.w + 1).toNat = s.w.toNat + 1 := toNat_w_succ hbelow
    refine .inl ⟨h.moved hu (validComb_firstComb (hw.trans_le (by omega))) ?_ ?_, by simp [hu]⟩
    · exact hw.trans_le hbelow
    · exact hexact (by simp [hu, h.runState]) (by simp [hu, h.phase])
  | searchFault u hu _ hmore hlast hceiling =>
    have hw : s.w.toNat = s.cfg.wMax.val := le_antisymm h.w_le hceiling
    refine .inr (.inr ⟨rfl, rfl, by simp [hu, h.tableValid], hmore, by simp [hu, hw], ?_⟩)
    rw [hcandT, hcand, ← ncard_weight_lt]
    simp only [← weight_le_iff_of_last h.comb hlast, raise_cfg, hu, examine_cfg, hw]
  | initFault hphase | initDone hphase | initChained hphase | synd hphase | rdrow hphase
  | nop hphase | serialWait hphase | serialErr _ hphase | serialLast _ hphase
  | serialRowEnd _ hphase | serialInside _ hphase => simp [h.phase] at hphase

/-- In a BUILD's search there is a next step, which counts its candidate within the bound. -/
theorem Searching.exists_step {s : State} (h : Searching s) :
    ∃ u, step s = .next u ∧ u.cfg = s.cfg ∧ u.cand.toNat = s.cand.toNat + 1 ∧
      u.cand.toNat ≤ ∑ v ∈ Finset.range (s.cfg.wMax.val + 1), Nat.choose 24 v ∧
      ((Searching u ∧ u.err = s.err) ∨ SearchEnd s.err u) := by
  have hphase : PhaseStep s (searchStep s) := phaseStep_searchStep h.phase
  obtain ⟨hsucc, -, hbound⟩ := h.cand.examine h.comb h.w_le
  rw [← (table_of_search hphase h.phase).1] at hsucc hbound
  exact ⟨searchStep s,
    (step_of_no_input h.inputs).trans (sequencerStep_of_search h.runState h.phase),
    searchStep_cfg s, hsucc, hbound, h.next hphase⟩

/-- A BUILD's search ends, and CAND counts its steps up to the number of candidates (R290). -/
theorem Searching.ends {s : State} (k : Nat) (h : Searching s)
    (hk : ∑ v ∈ Finset.range (s.cfg.wMax.val + 1), Nat.choose 24 v ≤ s.cand.toNat + k) :
    ∃ n u, Host.Core.run core n s = .next u ∧ u.cfg = s.cfg ∧ u.cand.toNat = s.cand.toNat + n ∧
      u.cand.toNat ≤ ∑ v ∈ Finset.range (s.cfg.wMax.val + 1), Nat.choose 24 v ∧
      SearchEnd s.err u := by
  induction k generalizing s with
  | zero =>
    obtain ⟨u, -, -, hcand, hbound, -⟩ := h.exists_step
    omega
  | succ k ih =>
    obtain ⟨v, hstep, hcfg, hcand, hbound, ⟨hsearching, herr⟩ | hend⟩ := h.exists_step
    · obtain ⟨n, u, hrun, hcfgU, hcount, hle, hend⟩ := ih hsearching (by rw [hcfg]; omega)
      rw [hcfg] at hcfgU hle
      rw [herr] at hend
      exact ⟨n + 1, u, (run_succ_of_next (M := core) hstep n).trans hrun, hcfgU, by omega, hle,
        hend⟩
    · exact ⟨1, v, run_succ_of_next (M := core) hstep 0, hcfg, hcand, hbound, hend⟩

/-! ## The serialization -/

/-- A serialization with k bytes to go, a sink that answers `ok` to all of them, and no other turn
to come. -/
structure Sending (k : Nat) (rest : List SinkAnswer) (s : State) : Prop where
  runState : s.runState = .busy
  phase : s.phase = .serial
  inputs : s.inputs = []
  answers : s.answers = List.replicate k .ok ++ rest
  byte_le : s.byte.toNat ≤ 2
  offset : byteOffset s + k = 12288
  sent : 0 < byteOffset s → s.out = artifactPrefix s (byteOffset s)

/-- An accepted SER begins a serialization of 12288 bytes (R194, R200). -/
theorem sending_of_accepted {rest : List SinkAnswer} {s : State} (hinputs : s.inputs = [])
    (hanswers : s.answers = List.replicate 12288 .ok ++ rest) :
    Sending 12288 rest (furtherEffect .ser (acceptOp .ser s)) where
  runState := rfl
  phase := rfl
  inputs := hinputs
  answers := hanswers
  byte_le := Nat.zero_le _
  offset := by simp [furtherEffect, byteOffset]
  sent hpos := absurd hpos (by simp [furtherEffect, byteOffset])

/-- With no other turn to come every step is a SERIAL step. -/
theorem Sending.step_eq {k : Nat} {rest : List SinkAnswer} {s : State} (h : Sending k rest s) :
    step s = .next (serialStep s) :=
  (step_of_no_input h.inputs).trans (sequencerStep_of_serial h.runState h.phase)

/-- The state after the last byte (R198). -/
def sentAll (rest : List SinkAnswer) (s : State) : State := toIdle { s with
  answers := rest, out := artifact s, outCommit := true, row := 4095, byte := 2 }

/-- Seen from before the accept step, it is the command's end. -/
theorem sentAll_of_accepted (rest : List SinkAnswer) (s : State) :
    sentAll rest (furtherEffect .ser (acceptOp .ser s)) = { s with
      cmdRej := false, op := .ser, phase := .none, runState := .idle, row := 4095, byte := 2,
      outCommit := true, out := artifact s, answers := rest } := by
  have hsame : artifact (furtherEffect .ser (acceptOp .ser s)) = artifact s :=
    artifactPrefix_congr rfl rfl 12288
  rw [sentAll, hsame]
  simp only [toIdle, furtherEffect, serialBegin, acceptOp]

/-- With no byte to go but the last, the step is the last. -/
theorem Sending.last {rest : List SinkAnswer} {s : State} (h : Sending 1 rest s) :
    serialStep s = sentAll rest s := by
  have hoffset : 3 * s.row.toNat + s.byte.toNat + 1 = 12288 := h.offset
  have hle := h.byte_le
  have hrow : s.row = 4095 := by bv_omega
  have hbyte : s.byte = 2 := by bv_omega
  have hout : sinkAccept (sinkOffer s) s.out = artifact s := by
    rw [sinkAccept_eq_artifactPrefix h.byte_le h.sent, h.offset, artifact]
  rw [serialStep_of_ok_last (rest := rest) h.answers h.phase hrow hbyte, hout, sentAll, ← hrow,
    ← hbyte]

/-- A step that sends a byte and moves on keeps what the last state is made of. -/
theorem Sending.moved {k : Nat} {rest : List SinkAnswer} {s t : State} {row : BitVec 12}
    {byte : BitVec 2} (h : Sending (k + 1) rest s)
    (ht : t = { s with
      answers := List.replicate k .ok ++ rest, out := sinkAccept (sinkOffer s) s.out,
      byte := byte, row := row })
    (hbyte : byte.toNat ≤ 2) (hoffset : byteOffset t = byteOffset s + 1) :
    Sending k rest t ∧ sentAll rest t = sentAll rest s := by
  have hsent := sinkAccept_eq_artifactPrefix h.byte_le h.sent
  have hsame (n : Nat) : artifactPrefix t n = artifactPrefix s n :=
    artifactPrefix_congr (by rw [ht]) (by rw [ht]) n
  have hlast := h.offset
  have hfields : t.runState = .busy ∧ t.phase = .serial ∧ t.inputs = [] := by
    rw [ht]
    exact ⟨h.runState, h.phase, h.inputs⟩
  obtain ⟨hrun, hphase, hinputs⟩ := hfields
  refine ⟨⟨hrun, hphase, hinputs, by rw [ht], by rwa [ht], by omega, fun _ => ?_⟩, ?_⟩
  · rw [hsame, hoffset, ← hsent, ht]
  · rw [sentAll, artifact, hsame, ht, sentAll, artifact]

/-- Before the last byte the step sends one and moves on. -/
theorem Sending.next {k : Nat} {rest : List SinkAnswer} {s : State} (h : Sending (k + 2) rest s) :
    Sending (k + 1) rest (serialStep s) ∧ sentAll rest (serialStep s) = sentAll rest s := by
  have hlast : 3 * s.row.toNat + s.byte.toNat + (k + 2) = 12288 := h.offset
  have hle := h.byte_le
  by_cases hbyte : s.byte = 2
  · have hrow : s.row ≠ 4095 := by
      rintro heq
      have hpast : 12287 + (k + 2) = 12288 := by simpa [heq, hbyte] using hlast
      omega
    have hstep := serialStep_of_ok_row_end (rest := List.replicate (k + 1) .ok ++ rest) h.answers
      hrow hbyte
    exact h.moved hstep (by decide) (byteOffset_row_end hrow hbyte (by rw [hstep]) (by rw [hstep]))
  · have hstep := serialStep_of_ok_row_inside (rest := List.replicate (k + 1) .ok ++ rest) h.answers
      hbyte
    have hmoved : (s.byte + 1).toNat ≤ 2 := by bv_omega
    exact h.moved hstep hmoved (byteOffset_row_inside hle (by rw [hstep]) (by rw [hstep]))

/-- A serialization with k + 1 bytes to go takes k + 1 steps (R202, R288). -/
theorem Sending.run {k : Nat} {rest : List SinkAnswer} {s : State} (h : Sending (k + 1) rest s) :
    Host.Core.run core (k + 1) s = .next (sentAll rest s) := by
  induction k generalizing s with
  | zero =>
    rw [← h.last]
    exact run_succ_of_next (M := core) h.step_eq 0
  | succ k ih =>
    obtain ⟨hmore, hsame⟩ := h.next
    rw [← hsame, ← ih hmore]
    exact run_succ_of_next (M := core) h.step_eq (k + 1)

end Sys2Proof
end

section
/-! PROOFS. The obligations about whole runs of BUILD and SER. -/

namespace Sys2Proof

open Sys2Proof.Machine

/-- Settles O18: the accept step begins a search at CAND 0, whose every step counts one candidate of
at most the bound and keeps the search going or ends it. -/
theorem buildTerminates : Obligations.BuildTerminates := by
  intro s hidle hvalid hinputs
  obtain ⟨n, u, hrun, hcfg, hcand, hle, hend⟩ :=
    (searching_of_accepted hinputs).ends _ (Nat.le_add_left _ _)
  have hn : u.cand.toNat = n := hcand.trans (Nat.zero_add n)
  refine ⟨_, n, u, exec_accepted (i := .build) hidle hvalid, hrun, hn ▸ hle, hn, ?_⟩
  obtain hdone | ⟨hfault, herr, hoff, hcount, hw, hall⟩ := hend
  · exact .inl hdone
  · rw [hcfg] at hw hall
    exact .inr ⟨hfault, herr, hoff, hcount, hw, hn ▸ hall⟩

/-- Settles O19: the accept step begins a serialization with 12288 bytes to go. -/
theorem serSendsTheWholeArtifact : Obligations.SerSendsTheWholeArtifact := by
  intro s rest hidle htable hinputs hanswers
  refine ⟨_, exec_accepted (i := .ser) hidle htable, ?_⟩
  rw [← sentAll_of_accepted]
  exact Sending.run (k := 12287) (sending_of_accepted hinputs hanswers)

end Sys2Proof
end

section
/-! SUPPORT. The rank test (spec 40_generator_and_parity_check.md R123): each step of the
elimination keeps the span of the rows, and at its end the rows found are independent and the others
are 0. -/

namespace Sys2Proof.Machine

/-! ## The span of the rows -/

theorem selectedSum_congr {k n : Nat} {f g : Nat → Bool} {u v : Nat → BitVec k}
    (hf : ∀ j < n, f j = g j) (hu : ∀ j < n, u j = v j) :
    selectedSum n f u = selectedSum n g v := by
  refine BitVec.eq_of_getLsbD_eq fun i _ => ?_
  rw [getLsbD_selectedSum, getLsbD_selectedSum]
  exact xorSum_congr fun j hj => by rw [hf j hj, hu j hj]

/-- Selections add up. -/
theorem selectedSum_xor {k : Nat} (n : Nat) (f g : Nat → Bool) (v : Nat → BitVec k) :
    selectedSum n (fun j => f j ^^ g j) v = selectedSum n f v ^^^ selectedSum n g v := by
  refine BitVec.eq_of_getLsbD_eq fun i _ => ?_
  simp only [BitVec.getLsbD_xor, getLsbD_selectedSum, ← xorSum_xor, Bool.and_xor_distrib_left]

/-- Selecting one word gives the word. -/
theorem selectedSum_single {k n i : Nat} (hi : i < n) (v : Nat → BitVec k) :
    selectedSum n (fun j => decide (j = i)) v = v i := by
  refine BitVec.eq_of_getLsbD_eq fun b _ => ?_
  rw [getLsbD_selectedSum]
  simp only [Bool.and_comm _ (decide _)]
  rw [xorSum_single]
  simp [hi]

/-- Words that are 0 from r on add nothing. -/
theorem selectedSum_of_zero_from {k r n : Nat} (f : Nat → Bool) {v : Nat → BitVec k} (hr : r ≤ n)
    (hv : ∀ i, r ≤ i → i < n → v i = 0) : selectedSum n f v = selectedSum r f v := by
  induction n, hr using Nat.le_induction with
  | base => rfl
  | succ n hr ih =>
    have hbelow := ih fun i hi hin => hv i hi (hin.trans n.lt_succ_self)
    rw [selectedSum_succ, hv n hr n.lt_succ_self, hbelow]
    simp

/-- Row i of the list the elimination works on; 0 past its end. -/
def rowOf (rows : List Pattern) (i : Nat) : Pattern := rows.getD i 0

/-- The span of twelve rows over GF(2). -/
def rowSpan (rows : List Pattern) : Set Pattern :=
  {e | ∃ selected, selectedSum 12 selected (rowOf rows) = e}

/-- The span of the rows of G is the set of its combinations (41_syndrome.md R149). -/
theorem range_rowCombination (g : Matrix) : Set.range (rowCombination g) = rowSpan g.toList := by
  have hrow (j : Nat) : rowAt g j = rowOf g.toList j := by simp [rowAt, rowOf]
  ext e
  constructor
  · rintro ⟨m, rfl⟩
    exact ⟨m.getLsbD, selectedSum_congr (fun _ _ => rfl) fun j _ => (hrow j).symm⟩
  · rintro ⟨selected, rfl⟩
    exact ⟨bitsOf 12 selected, selectedSum_congr
      (fun j hj => by rw [getLsbD_bitsOf, decide_eq_true hj, Bool.true_and]) fun j _ => hrow j⟩

theorem zero_mem_rowSpan (rows : List Pattern) : 0 ∈ rowSpan rows := by
  refine ⟨fun _ => false, BitVec.eq_of_getLsbD_eq fun i _ => ?_⟩
  simp [getLsbD_selectedSum]

theorem xor_mem_rowSpan {rows : List Pattern} {a b : Pattern} (ha : a ∈ rowSpan rows)
    (hb : b ∈ rowSpan rows) : a ^^^ b ∈ rowSpan rows := by
  obtain ⟨f, rfl⟩ := ha
  obtain ⟨g, rfl⟩ := hb
  exact ⟨_, selectedSum_xor 12 f g _⟩

theorem row_mem_rowSpan (rows : List Pattern) {i : Nat} (hi : i < 12) :
    rowOf rows i ∈ rowSpan rows :=
  ⟨_, selectedSum_single hi _⟩

/-- A list of rows out of a span spans no more. -/
theorem rowSpan_subset {rows rows' : List Pattern} (h : ∀ i < 12, rowOf rows' i ∈ rowSpan rows) :
    rowSpan rows' ⊆ rowSpan rows := by
  rintro _ ⟨selected, rfl⟩
  refine List.foldlRecOn (motive := (· ∈ rowSpan rows)) _ _ (zero_mem_rowSpan rows) ?_
  intro acc hacc i hi
  split
  · exact xor_mem_rowSpan hacc (h i (List.mem_range.mp hi))
  · exact hacc

/-! ## The operations of the elimination, row by row -/

/-- The pivot is a row at or below r with the column's bit set. -/
theorem findPivot_eq_some {rows : List Pattern} {c r p : Nat} (h : findPivot rows c r = some p) :
    p < 12 ∧ r ≤ p ∧ (rowOf rows p).getLsbD c = true := by
  have hmem := List.mem_of_find?_eq_some h
  have hbit := List.find?_some h
  simp only [Bool.and_eq_true, decide_eq_true_eq] at hbit
  exact ⟨List.mem_range.mp hmem, hbit⟩

/-- Without a pivot every row at or below r has a 0 in the column. -/
theorem findPivot_eq_none {rows : List Pattern} {c r : Nat} (h : findPivot rows c r = none)
    {i : Nat} (hr : r ≤ i) (hi : i < 12) : (rowOf rows i).getLsbD c = false := by
  have hnot := List.find?_eq_none.mp h i (List.mem_range.mpr hi)
  simpa [hr, rowOf] using hnot

theorem rowOf_set {rows : List Pattern} {i : Nat} (hi : i < rows.length) (v : Pattern) (j : Nat) :
    rowOf (rows.set i v) j = if j = i then v else rowOf rows j := by
  obtain rfl | hne := eq_or_ne j i
  · simp [rowOf, hi]
  · simp [rowOf, hne, hne.symm]

/-- The exchange of two rows, as a permutation of the row numbers. -/
theorem rowOf_swapRows {rows : List Pattern} (hlen : rows.length = 12) {r p : Nat} (hr : r < 12)
    (hp : p < 12) (j : Nat) : rowOf (swapRows rows r p) j = rowOf rows (Equiv.swap r p j) := by
  rw [swapRows, rowOf_set (by simp [hlen, hp]), rowOf_set (by simp [hlen, hr])]
  obtain rfl | hjp := eq_or_ne j p
  · rw [if_pos rfl, Equiv.swap_apply_right]
    rfl
  · rw [if_neg hjp]
    obtain rfl | hjr := eq_or_ne j r
    · rw [if_pos rfl, Equiv.swap_apply_left]
      rfl
    · rw [if_neg hjr, Equiv.swap_apply_of_ne_of_ne hjr hjp]

theorem rowOf_clearColumn (rows : List Pattern) (c r : Nat) {i : Nat} (hi : i < 12) :
    rowOf (clearColumn rows c r) i = if i ≠ r ∧ (rowOf rows i).getLsbD c = true
      then rowOf rows i ^^^ rowOf rows r else rowOf rows i := by
  simp [clearColumn, rowOf, hi]

/-- Bit by bit: row r's bits are added to the other rows with a 1 in column c. -/
theorem getLsbD_clearColumn (rows : List Pattern) (c r k : Nat) {i : Nat} (hi : i < 12) :
    (rowOf (clearColumn rows c r) i).getLsbD k = ((rowOf rows i).getLsbD k ^^
      (decide (i ≠ r) && (rowOf rows i).getLsbD c && (rowOf rows r).getLsbD k)) := by
  rw [rowOf_clearColumn rows c r hi]
  split
  next hadded => simp [hadded]
  next hkept =>
    have hoff : (decide (i ≠ r) && (rowOf rows i).getLsbD c) = false := by
      simpa using hkept
    rw [hoff]
    simp

/-- Exchanging two rows keeps the span. -/
theorem rowSpan_swapRows {rows : List Pattern} (hlen : rows.length = 12) {r p : Nat} (hr : r < 12)
    (hp : p < 12) : rowSpan (swapRows rows r p) = rowSpan rows := by
  have hswap (j : Nat) (hj : j < 12) : Equiv.swap r p j < 12 := by
    rw [Equiv.swap_apply_def]
    split_ifs <;> assumption
  refine (rowSpan_subset fun i hi => ?_).antisymm (rowSpan_subset fun i hi => ?_)
  · rw [rowOf_swapRows hlen hr hp]
    exact row_mem_rowSpan rows (hswap i hi)
  · rw [← Equiv.swap_apply_self r p i, ← rowOf_swapRows hlen hr hp]
    exact row_mem_rowSpan _ (hswap i hi)

/-- Adding row r to other rows keeps the span. -/
theorem rowSpan_clearColumn (rows : List Pattern) (c : Nat) {r : Nat} (hr : r < 12) :
    rowSpan (clearColumn rows c r) = rowSpan rows := by
  have hpivot : rowOf (clearColumn rows c r) r = rowOf rows r := by
    rw [rowOf_clearColumn rows c r hr, if_neg fun h => h.1 rfl]
  refine (rowSpan_subset fun i hi => ?_).antisymm (rowSpan_subset fun i hi => ?_)
  · rw [rowOf_clearColumn rows c r hi]
    split
    · exact xor_mem_rowSpan (row_mem_rowSpan rows hi) (row_mem_rowSpan rows hr)
    · exact row_mem_rowSpan rows hi
  · have hrow := row_mem_rowSpan (clearColumn rows c r) hi
    have hadd := xor_mem_rowSpan hrow (row_mem_rowSpan (clearColumn rows c r) hr)
    by_cases hadded : i ≠ r ∧ (rowOf rows i).getLsbD c = true
    · rw [hpivot, rowOf_clearColumn rows c r hi, if_pos hadded, BitVec.xor_assoc, BitVec.xor_self,
        BitVec.xor_zero] at hadd
      exact hadd
    · rw [rowOf_clearColumn rows c r hi, if_neg hadded] at hrow
      exact hrow

/-! ## The invariant of the elimination -/

/-- With r pivots found and the columns cs to come: each pivot row alone has a 1 in its own column,
and the rows at or below r are 0 in the columns done. -/
structure Echelon (rows : List Pattern) (cs : List Nat) (r : Nat) : Prop where
  length : rows.length = 12
  le : r ≤ 12
  pivots : ∃ c : Nat → Nat, ∀ i < r, ∀ j < 12, (rowOf rows j).getLsbD (c i) = decide (j = i)
  done : ∀ i, r ≤ i → i < 12 → ∀ k < 24, k ∉ cs → (rowOf rows i).getLsbD k = false

theorem Echelon.swapRows {rows : List Pattern} {cs : List Nat} {r p : Nat} (h : Echelon rows cs r)
    (hrp : r ≤ p) (hp : p < 12) : Echelon (swapRows rows r p) cs r where
  length := by simp [Machine.swapRows, h.length]
  le := h.le
  pivots := by
    obtain ⟨c, hc⟩ := h.pivots
    refine ⟨c, fun i hi j hj => ?_⟩
    rw [rowOf_swapRows h.length (hrp.trans_lt hp) hp, Equiv.swap_apply_def]
    have hr := hrp.trans_lt hp
    split_ifs with hjr hjp
    · rw [hc i hi p hp, decide_eq_decide]
      omega
    · rw [hc i hi r hr, decide_eq_decide]
      omega
    · exact hc i hi j hj
  done := by
    intro i hi hlt
    rw [rowOf_swapRows h.length (hrp.trans_lt hp) hp, Equiv.swap_apply_def]
    have hr := hrp.trans_lt hp
    split_ifs
    · exact h.done p hrp hp
    · exact h.done r le_rfl hr
    · exact h.done i hi hlt

theorem Echelon.clearColumn {rows : List Pattern} {cs : List Nat} {c r : Nat}
    (h : Echelon rows (c :: cs) r) (hr : r < 12) (hbit : (rowOf rows r).getLsbD c = true) :
    Echelon (clearColumn rows c r) cs (r + 1) where
  length := by simp [Machine.clearColumn]
  le := hr
  pivots := by
    obtain ⟨d, hd⟩ := h.pivots
    refine ⟨fun i => if i < r then d i else c, fun i hi j hj => ?_⟩
    rw [getLsbD_clearColumn rows c r _ hj]
    beta_reduce
    obtain hlt | rfl := Nat.lt_succ_iff_lt_or_eq.mp hi
    · have hpivot : decide (r = i) = false := decide_eq_false (by omega)
      rw [if_pos hlt, hd i hlt j hj, hd i hlt r hr, hpivot]
      simp
    · rw [if_neg (lt_irrefl i), hbit]
      by_cases hji : j = i
      · simp [hji, hbit]
      · simp [hji]
  done := by
    intro i hi hlt k hk hnot
    rw [getLsbD_clearColumn rows c r k hlt]
    have hne : decide (i ≠ r) = true := decide_eq_true (by omega)
    by_cases hkc : k = c
    · simp [hkc, hne, hbit]
    · have hnew : k ∉ c :: cs := by simp [hkc, hnot]
      simp [h.done i (by omega) hlt k hk hnew, h.done r le_rfl hr k hk hnew]

/-- The rows of G before any column is done. -/
theorem echelon_start (g : Matrix) : Echelon g.toList (List.range 24) 0 where
  length := g.length_toList
  le := Nat.zero_le _
  pivots := ⟨id, fun i hi => absurd hi (Nat.not_lt_zero i)⟩
  done := fun _ _ _ _ hk hnot => absurd (List.mem_range.mpr hk) hnot

/-- The elimination ends with as many pivots as it counts, over rows of the same span. -/
theorem exists_echelon_of_eliminate (cs : List Nat) {rows : List Pattern} {r : Nat}
    (h : Echelon rows cs r) :
    ∃ rows', Echelon rows' [] (eliminate cs rows r) ∧ rowSpan rows' = rowSpan rows := by
  induction cs generalizing rows r with
  | nil => exact ⟨rows, h, rfl⟩
  | cons c cs ih =>
    rw [eliminate]
    split
    next hr =>
      subst hr
      exact ⟨rows, { h with done := fun i hi hlt => absurd hlt (Nat.not_lt.mpr hi) }, rfl⟩
    next hr =>
      have hlt : r < 12 := lt_of_le_of_ne h.le hr
      split
      next hnone =>
        refine ih { h with done := fun i hi hlt k hk hnot => ?_ }
        by_cases hkc : k = c
        · rw [hkc]
          exact findPivot_eq_none hnone hi hlt
        · exact h.done i hi hlt k hk (by simp [hkc, hnot])
      next p hsome =>
        obtain ⟨hp, hrp, hbit⟩ := findPivot_eq_some hsome
        have hswapped := h.swapRows hrp hp
        have hpivot : (rowOf (swapRows rows r p) r).getLsbD c = true := by
          rw [rowOf_swapRows h.length hlt hp, Equiv.swap_apply_left]
          exact hbit
        obtain ⟨rows', hrows', hspan⟩ := ih (hswapped.clearColumn hlt hpivot)
        exact ⟨rows', hrows',
          hspan.trans ((rowSpan_clearColumn _ c hlt).trans (rowSpan_swapRows h.length hlt hp))⟩

/-- At the end the rows below the pivots are 0 and the pivots' combinations are all different, so
the span has 2 to the number of pivots. -/
theorem Echelon.ncard_rowSpan {rows : List Pattern} {r : Nat} (h : Echelon rows [] r) :
    Set.ncard (rowSpan rows) = 2 ^ r := by
  obtain ⟨c, hc⟩ := h.pivots
  have hzero (i : Nat) (hi : r ≤ i) (hlt : i < 12) : rowOf rows i = 0 :=
    BitVec.eq_of_getLsbD_eq fun k hk => by
      rw [h.done i hi hlt k hk (List.not_mem_nil)]
      exact BitVec.getLsbD_zero.symm
  have hrange : rowSpan rows =
      Set.range fun m : BitVec r => selectedSum r m.getLsbD (rowOf rows) := by
    ext e
    constructor
    · rintro ⟨selected, rfl⟩
      refine ⟨bitsOf r selected, ?_⟩
      show _ = selectedSum 12 selected (rowOf rows)
      rw [selectedSum_of_zero_from selected h.le hzero]
      exact selectedSum_congr (fun j hj => by rw [getLsbD_bitsOf, decide_eq_true hj, Bool.true_and])
        fun _ _ => rfl
    · rintro ⟨m, rfl⟩
      exact ⟨m.getLsbD, selectedSum_of_zero_from m.getLsbD h.le hzero⟩
  have hpivot (m : BitVec r) (i : Nat) (hi : i < r) :
      (selectedSum r m.getLsbD (rowOf rows)).getLsbD (c i) = m.getLsbD i := by
    have hr := h.le
    rw [getLsbD_selectedSum]
    calc xorSum r (fun j => (rowOf rows j).getLsbD (c i) && m.getLsbD j)
      _ = xorSum r (fun j => decide (j = i) && m.getLsbD j) :=
        xorSum_congr fun j hj => by rw [hc i hi j (by omega)]
      _ = m.getLsbD i := by simp [xorSum_single, hi]
  have hinj : Function.Injective fun m : BitVec r => selectedSum r m.getLsbD (rowOf rows) :=
    fun a b hab => BitVec.eq_of_getLsbD_eq fun i hi => by
      rw [← hpivot a i hi, ← hpivot b i hi]
      exact congrArg (·.getLsbD (c i)) hab
  rw [hrange, Set.ncard_range_of_injective hinj, Nat.card_eq_fintype_card,
    ← FinEnum.card_eq_fintypeCard, FinEnum.card_bitVec]

/-- The rank is at most 12 and counts the span of the rows (R123). -/
theorem rank12_spec (g : Matrix) :
    rank12 g ≤ 12 ∧ Set.ncard (Set.range (rowCombination g)) = 2 ^ rank12 g := by
  obtain ⟨rows, hrows, hspan⟩ := exists_echelon_of_eliminate (List.range 24) (echelon_start g)
  refine ⟨hrows.le, ?_⟩
  rw [range_rowCombination, ← hspan]
  exact hrows.ncard_rowSpan

end Sys2Proof.Machine
end

section
/-! PROOFS. The obligations about the rank test. -/

namespace Sys2Proof

open Sys2Proof.Machine

/-- Settles O56: every operation of the elimination keeps the span, and what it ends with spans 2 to
the number of pivots. -/
theorem rankIsDimensionOfSpan : Obligations.RankIsDimensionOfSpan := rank12_spec

/-- Settles O55: the code of a G in standard form has 4096 = 2 ^ 12 words. -/
theorem standardFormHasFullRank : Obligations.StandardFormHasFullRank := by
  intro g hg
  obtain ⟨-, hcount⟩ := rank12_spec g
  rw [ncard_range_rowCombination hg] at hcount
  exact Nat.pow_right_injective (le_refl 2) (hcount.symm.trans (by norm_num : 4096 = 2 ^ 12))

end Sys2Proof
end
